-- ==== Sys2Proof/Word.lean ====
section
/-! DEFINITION. The bit-vector widths of the block (00_scope.md R15, 30_encoding.md R58, R72, R79). Widths only; the bit-field
functions stand in Sys2Proof/Decode.lean and Sys2Proof/Machine/. -/

namespace Sys2Proof

/-- A PCF8574 register value, or an HD44780 command or data value (R15). -/
abbrev Byte := BitVec 8

/-- A nibble (R15). -/
abbrev Nibble := BitVec 4

/-- A host request word `H`, or a GLYPH payload word (R58). -/
abbrev RequestWord := BitVec 32

/-- A transport word `T` (R72). -/
abbrev TransportWord := BitVec 24

/-- A codepoint operand (R15). -/
abbrev Codepoint := BitVec 21

/-- A wait length in microseconds (R15). -/
abbrev Micros := BitVec 20

/-- A DDRAM address (R15). -/
abbrev DdramAddr := BitVec 7

/-- An I2C device address (R15). -/
abbrev DeviceAddr := BitVec 7

end Sys2Proof
end

