-- ==== Sys2Proof/Syntax.lean ====
section
/-! DEFINITION. The instructions: one constructor per row of spec/opcode_table.json (30_encoding.md R59, R72). The operands are
the fields of the encoding, pulled out of the word once, by the decoder; every field is unsigned (00_scope.md R17). -/

namespace Sys2Proof

/-- The 9 host requests (R59) and the 5 transport kinds (R72). A 1-bit operand `V` or `ON` is a `Bool`. -/
inductive Instr where
  /-- INIT (R60, R99). -/
  | init
  /-- CLEAR (R61, R100). -/
  | clear
  /-- PUTCHAR `CP` (R62, R102). -/
  | putchar (cp : Codepoint)
  /-- MOVETO `COL`, `ROW` (R63, R101). -/
  | moveto (col row : BitVec 8)
  /-- SETBL `V` (R64, R107). -/
  | setbl (v : Bool)
  /-- SETDISP `V` (R65, R108). -/
  | setdisp (v : Bool)
  /-- SETCURSOR `V` (R66, R109). -/
  | setcursor (v : Bool)
  /-- SETBLINK `V` (R67, R110). -/
  | setblink (v : Bool)
  /-- GLYPH `SLOT`, `p[0..7]` (R68, R111). -/
  | glyph (slot : BitVec 8) (pattern : Vector Byte 8)
  /-- T.WRINIT `NIBBLE` (R85). -/
  | tWrinit (nibble : Nibble)
  /-- T.WRCMD `CMD` (R86). -/
  | tWrcmd (cmd : Byte)
  /-- T.WRDATA `VALUE` (R88). -/
  | tWrdata (value : Byte)
  /-- T.SETBL `ON` (R89). -/
  | tSetbl (on : Bool)
  /-- T.WAIT `US` (R90). -/
  | tWait (us : Micros)
  deriving DecidableEq, Repr

end Sys2Proof
end

