-- ==== Sys2Proof/Decode.lean ====
section
/-! DEFINITION. The decoder of host request words and of transport words, total and rejecting by name, and the encoder written
from the same encodings (30_encoding.md R58 to R72). Decoding reads no state (R82). -/

namespace Sys2Proof

/-- Why a word is no instruction. -/
inductive Reject where
  /-- `OPC` is 0x00 or 0x0A to 0xFF (R70). -/
  | reservedOpcode
  /-- A defined `OPC` with a reserved operand bit that is not 0 (R71). -/
  | reservedOperandBits
  /-- `KIND` is 0x5 to 0xF (R96). -/
  | reservedKind
  /-- A defined `KIND` with a reserved bit of `VAL` that is not 0 (R72). -/
  | reservedValueBits
  /-- No request word, or a GLYPH word without both payload words (R69). -/
  | wordsMissing
  /-- More words than one request takes (R69). -/
  | wordsLeftOver
  deriving DecidableEq, Repr

/-! ## The opcode table (spec/opcode_table.json) -/

/-- One row of the opcode table: a word is of this row when `word & mask = match`. -/
structure OpcodeRow where
  mnemonic : String
  mask : Nat
  value : Nat
  deriving DecidableEq, Repr

/-- The rows of format host-1word and host-3word: `H` is legal when `(H & mask) = match` for its row (R71). -/
def hostRows : List OpcodeRow :=
  [⟨"INIT", 0xFFFFFFFF, 0x01000000⟩, ⟨"CLEAR", 0xFFFFFFFF, 0x02000000⟩, ⟨"PUTCHAR", 0xFFE00000, 0x03000000⟩,
   ⟨"MOVETO", 0xFFFF0000, 0x04000000⟩, ⟨"SETBL", 0xFFFFFFFE, 0x05000000⟩, ⟨"SETDISP", 0xFFFFFFFE, 0x06000000⟩,
   ⟨"SETCURSOR", 0xFFFFFFFE, 0x07000000⟩, ⟨"SETBLINK", 0xFFFFFFFE, 0x08000000⟩, ⟨"GLYPH", 0xFFFFFF00, 0x09000000⟩]

/-- The rows of format transport-24 (R72). -/
def transportRows : List OpcodeRow :=
  [⟨"T.WRINIT", 0xFFFFF0, 0x000000⟩, ⟨"T.WRCMD", 0xFFFF00, 0x100000⟩, ⟨"T.WRDATA", 0xFFFF00, 0x200000⟩,
   ⟨"T.SETBL", 0xFFFFFE, 0x300000⟩, ⟨"T.WAIT", 0xF00000, 0x400000⟩]

/-- Whether a word of any width belongs to a row. -/
def OpcodeRow.covers {n : Nat} (r : OpcodeRow) (word : BitVec n) : Bool :=
  word &&& BitVec.ofNat n r.mask == BitVec.ofNat n r.value

/-! ## Host requests -/

/-- `OPC`, bits 31:24 of `H` (R58). -/
def opcodeOf (h : RequestWord) : BitVec 8 :=
  h.extractLsb' 24 8

/-- The opcode of the one request of three words (R69). -/
def glyphOpcode : BitVec 8 := 0x09#8

/-- "Length depends on `OPC` alone" (R69). -/
def requestLength (h : RequestWord) : Nat :=
  if opcodeOf h = glyphOpcode then 3 else 1

/-- The words of one request: `H`, and the payload words (0 where the request has none). -/
structure RawRequest where
  h : RequestWord
  p0 : RequestWord
  p1 : RequestWord
  deriving DecidableEq, Repr

/-- The first request of a list of words and the words after it; "the decoder reads `P0` and `P1` before it checks anything else"
(R69). None where a word of it is not there. -/
def takeRequest : List RequestWord → Option (RawRequest × List RequestWord)
  | [] => none
  | h :: rest =>
    if requestLength h = 3 then
      match rest with
      | p0 :: p1 :: after => some (⟨h, p0, p1⟩, after)
      | _ => none
    else some (⟨h, 0, 0⟩, rest)

/-- `pattern[i] = P0[8i+7:8i]` and `pattern[4+i] = P1[8i+7:8i]` for `i` = 0..3 (R68, 20_memory.md R45). -/
def unpackPattern (p0 p1 : RequestWord) : Vector Byte 8 :=
  #v[p0.extractLsb' 0 8, p0.extractLsb' 8 8, p0.extractLsb' 16 8, p0.extractLsb' 24 8,
     p1.extractLsb' 0 8, p1.extractLsb' 8 8, p1.extractLsb' 16 8, p1.extractLsb' 24 8]

/-- An instruction whose reserved bits are checked first: legal when `(H & mask) = match` (R71). -/
def legalRequest (h mask value : RequestWord) (i : Instr) : Except Reject Instr :=
  if h &&& mask = value then .ok i else .error .reservedOperandBits

/-- One host request (R59 to R71). -/
def decodeRequest (r : RawRequest) : Except Reject Instr :=
  if opcodeOf r.h = 0x01#8 then legalRequest r.h 0xFFFFFFFF 0x01000000 .init
  else if opcodeOf r.h = 0x02#8 then legalRequest r.h 0xFFFFFFFF 0x02000000 .clear
  else if opcodeOf r.h = 0x03#8 then legalRequest r.h 0xFFE00000 0x03000000 (.putchar (r.h.extractLsb' 0 21))
  else if opcodeOf r.h = 0x04#8 then
    legalRequest r.h 0xFFFF0000 0x04000000 (.moveto (r.h.extractLsb' 8 8) (r.h.extractLsb' 0 8))
  else if opcodeOf r.h = 0x05#8 then legalRequest r.h 0xFFFFFFFE 0x05000000 (.setbl (r.h.getLsbD 0))
  else if opcodeOf r.h = 0x06#8 then legalRequest r.h 0xFFFFFFFE 0x06000000 (.setdisp (r.h.getLsbD 0))
  else if opcodeOf r.h = 0x07#8 then legalRequest r.h 0xFFFFFFFE 0x07000000 (.setcursor (r.h.getLsbD 0))
  else if opcodeOf r.h = 0x08#8 then legalRequest r.h 0xFFFFFFFE 0x08000000 (.setblink (r.h.getLsbD 0))
  else if opcodeOf r.h = glyphOpcode then
    legalRequest r.h 0xFFFFFF00 0x09000000 (.glyph (r.h.extractLsb' 0 8) (unpackPattern r.p0 r.p1))
  else .error .reservedOpcode

/-! ## Transport words -/

/-- `KIND`, bits 23:20 of `T` (R72). -/
def kindOf (t : TransportWord) : BitVec 4 :=
  t.extractLsb' 20 4

/-- A transport word whose reserved bits of `VAL` are checked first (R72). -/
def legalTransport (t mask value : TransportWord) (i : Instr) : Except Reject Instr :=
  if t &&& mask = value then .ok i else .error .reservedValueBits

/-- One transport word (R72). -/
def decodeTransport (t : TransportWord) : Except Reject Instr :=
  if kindOf t = 0x0#4 then legalTransport t 0xFFFFF0 0x000000 (.tWrinit (t.extractLsb' 0 4))
  else if kindOf t = 0x1#4 then legalTransport t 0xFFFF00 0x100000 (.tWrcmd (t.extractLsb' 0 8))
  else if kindOf t = 0x2#4 then legalTransport t 0xFFFF00 0x200000 (.tWrdata (t.extractLsb' 0 8))
  else if kindOf t = 0x3#4 then legalTransport t 0xFFFFFE 0x300000 (.tSetbl (t.getLsbD 0))
  else if kindOf t = 0x4#4 then legalTransport t 0xF00000 0x400000 (.tWait (t.extractLsb' 0 20))
  else .error .reservedKind

/-! ## Both ports -/

/-- The words of an instruction and the port they go to: the host request port, or the transport port (R72, 40_transport.md
R83). -/
inductive Encoded where
  | request (words : List RequestWord)
  | transport (word : TransportWord)
  deriving DecidableEq, Repr

/-- Exactly one instruction from its words. -/
def decode : Encoded → Except Reject Instr
  | .request words =>
    match takeRequest words with
    | none => .error .wordsMissing
    | some (r, []) => decodeRequest r
    | some (_, _ :: _) => .error .wordsLeftOver
  | .transport t => decodeTransport t

/-! ## The encoder -/

/-- Four pattern bytes in one payload word, the first in bits 7:0 (R68, R45). -/
def packWord (b0 b1 b2 b3 : Byte) : RequestWord :=
  (b3 ++ b2 ++ b1 ++ b0 : BitVec 32)

/-- The two payload words of a pattern (R68). -/
def packPattern (p : Vector Byte 8) : RequestWord × RequestWord :=
  (packWord p[0] p[1] p[2] p[3], packWord p[4] p[5] p[6] p[7])

/-- The words of an instruction, field by field from R60 to R68 and R72. -/
def encode : Instr → Encoded
  | .init => .request [0x01000000#32]
  | .clear => .request [0x02000000#32]
  | .putchar cp => .request [(0x03#8 ++ 0#3 ++ cp : BitVec 32)]
  | .moveto col row => .request [(0x04#8 ++ 0#8 ++ col ++ row : BitVec 32)]
  | .setbl v => .request [(0x05#8 ++ 0#23 ++ BitVec.ofBool v : BitVec 32)]
  | .setdisp v => .request [(0x06#8 ++ 0#23 ++ BitVec.ofBool v : BitVec 32)]
  | .setcursor v => .request [(0x07#8 ++ 0#23 ++ BitVec.ofBool v : BitVec 32)]
  | .setblink v => .request [(0x08#8 ++ 0#23 ++ BitVec.ofBool v : BitVec 32)]
  | .glyph slot p => .request [(0x09#8 ++ 0#16 ++ slot : BitVec 32), (packPattern p).1, (packPattern p).2]
  | .tWrinit n => .transport (0x0#4 ++ 0#16 ++ n : BitVec 24)
  | .tWrcmd c => .transport (0x1#4 ++ 0#12 ++ c : BitVec 24)
  | .tWrdata d => .transport (0x2#4 ++ 0#12 ++ d : BitVec 24)
  | .tSetbl v => .transport (0x3#4 ++ 0#19 ++ BitVec.ofBool v : BitVec 24)
  | .tWait t => .transport (0x4#4 ++ t : BitVec 24)

/-! ## The opcode table's numbering of bits -/

/-- The request words in a number whose bits count on from word to word: `H` in bits 31:0, `P0` in 63:32, `P1` in 95:64; as many
words as `H` says (R69). -/
def requestWordsOf (w : Nat) : List RequestWord :=
  let h := BitVec.ofNat 32 w
  if requestLength h = 3 then [h, BitVec.ofNat 32 (w / 2 ^ 32), BitVec.ofNat 32 (w / 2 ^ 64)] else [h]

/-- The instruction whose bits are `w`: the table gives its transport rows 24 bits and its host rows 32 or more, and the two kinds
of word arrive at different ports, so the width says which decoder reads it. -/
def decodeTableWord (nbits w : Nat) : Option Instr :=
  match decode (if nbits ≤ 24 then .transport (BitVec.ofNat 24 w) else .request (requestWordsOf w)) with
  | .ok i => some i
  | .error _ => none

end Sys2Proof
end

