-- ==== Sys2Proof/Config.lean ====
section
/-! DEFINITION. What is fixed when the block is constructed (00_scope.md R8 to R14), and the one free value of the model: the
Transport's answer to a bus write (20_memory.md R53). Which configurations are legal (R16) is said in Sys2Proof/WellFormed.lean. -/

namespace Sys2Proof

/-- `ROW_BASE`: a table of four 7-bit DDRAM base addresses, one per row 0 to 3 (R12). -/
structure RowBase where
  row0 : DdramAddr
  row1 : DdramAddr
  row2 : DdramAddr
  row3 : DdramAddr
  deriving DecidableEq, Repr

/-- The configuration of the block (R8 to R14). The fields are unbounded numbers where the spec gives a legality check, so that
each check of R16 says something; a configuration that fails one is refused (U7). -/
structure Configuration where
  /-- `ROWS` (R8). -/
  rows : Nat
  /-- `COLS` (R9). -/
  cols : Nat
  /-- `DEV_ADDR` (R10). -/
  devAddr : Nat
  /-- `CHARMAP_OVERRIDES` (R11): a finite map from codepoints to glyph codes, as (key, value) pairs with strictly rising keys
  (log 14). -/
  charmapOverrides : List (Nat × Nat)
  /-- `ROW_BASE` (R12). -/
  rowBase : RowBase
  /-- `T_SETTLE_US` (R13), an OPEN parameter. -/
  tSettleUs : Nat
  /-- `INIT_SWITCH_NIBBLE` (R14). -/
  initSwitchNibble : Bool
  deriving DecidableEq, Repr

/-- The default `ROW_BASE` for a number of columns: `[0x00, 0x40, COLS, 0x40 + COLS]` (R12, the spec's decision D7). -/
def Config.defaultRowBase (cols : Nat) : RowBase :=
  { row0 := 0x00#7, row1 := 0x40#7, row2 := BitVec.ofNat 7 cols, row3 := BitVec.ofNat 7 (0x40 + cols) }

/-- A configuration of a given geometry with every other parameter at the spec's default, and `T_SETTLE_US` and `DEV_ADDR`
given. -/
def Config.ofGeometry (rows cols devAddr tSettleUs : Nat) : Configuration :=
  { rows := rows, cols := cols, devAddr := devAddr, charmapOverrides := [], rowBase := Config.defaultRowBase cols,
    tSettleUs := tSettleUs, initSwitchNibble := true }

/-- DESIGN CHOICE (log 2): the configuration `State.reset` carries. The spec fixes none; 20x4 with the default row table is the
one its test vectors take, `DEV_ADDR = 0x27` is that of its program P1, and 40 is its suggestion for the OPEN `T_SETTLE_US`. -/
def Config.standard : Configuration :=
  Config.ofGeometry 4 20 0x27 40

/-- The Transport's answer to one one-byte write (00_scope.md R18). -/
inductive Answer where
  | ack
  | err
  deriving DecidableEq, Repr, Inhabited

/-- FREE VALUE (log 4): the answer to the `n`-th draw once the scheduled answers are used up. "The Transport's answer to each
`BusWrite` is a draw, ACK or ERR, with no law" (R53). It has no body: nothing can be proved of its value. -/
opaque Config.freeAnswer : Nat → Answer

end Sys2Proof
end

