-- ==== Sys2Proof/WellFormed.lean ====
section
/-! DEFINITION. Which configurations the model is defined for: the named checks of 00_scope.md R16. An instruction needs no check
of its own: every operand of Instr has the width of its field, so every term of Instr is encodable. Operand values that an
operation rejects (a position outside the geometry, a slot above 7, an unmapped codepoint) are well-formed; the operation's own
rule raises its error. -/

namespace Sys2Proof

/-- Row `y` of the table, `ROW_BASE[y]` (R12); rows above 3 do not exist and no legal configuration asks for one. -/
def RowBase.at (b : RowBase) : Nat → DdramAddr
  | 0 => b.row0
  | 1 => b.row1
  | 2 => b.row2
  | _ => b.row3

namespace Configuration

/-- `rows_legal`. -/
def rowsLegal (c : Configuration) : Bool :=
  decide (c.rows = 1 ∨ c.rows = 2 ∨ c.rows = 4)

/-- `cols_legal`. -/
def colsLegal (c : Configuration) : Bool :=
  decide (1 ≤ c.cols ∧ c.cols ≤ if c.rows = 4 then 20 else 40)

/-- `addr_legal`. -/
def addrLegal (c : Configuration) : Bool :=
  decide (0x20 ≤ c.devAddr ∧ c.devAddr ≤ 0x27)

/-- `charmap_keys`. -/
def charmapKeys (c : Configuration) : Bool :=
  c.charmapOverrides.all fun kv => decide (0x80 ≤ kv.1 ∧ kv.1 ≤ 0x10FFFF)

/-- `charmap_values`. -/
def charmapValues (c : Configuration) : Bool :=
  c.charmapOverrides.all fun kv => decide (kv.2 ≤ 0xFF)

/-- `row_base_fits`. -/
def rowBaseFits (c : Configuration) : Bool :=
  (List.range c.rows).all fun y => decide ((c.rowBase.at y).toNat + c.cols - 1 ≤ 0x7F)

/-- `row_base_disjoint`: of any two rows, one ends before the other begins. -/
def rowBaseDisjoint (c : Configuration) : Bool :=
  (List.range c.rows).all fun y => (List.range c.rows).all fun z =>
    decide (y = z ∨ (c.rowBase.at y).toNat + c.cols ≤ (c.rowBase.at z).toNat
      ∨ (c.rowBase.at z).toNat + c.cols ≤ (c.rowBase.at y).toNat)

/-- `settle_legal`. -/
def settleLegal (c : Configuration) : Bool :=
  decide (c.tSettleUs < 2 ^ 20)

/-- The model's own check (log 14): the override list is a map in canonical form, its keys strictly rising. -/
def charmapCanonical (c : Configuration) : Bool :=
  decide ((c.charmapOverrides.map Prod.fst).Pairwise (· < ·))

/-- "A model is defined only for a configuration that passes every one of these named checks" (R16). -/
def wf (c : Configuration) : Bool :=
  c.rowsLegal && c.colsLegal && c.addrLegal && c.charmapKeys && c.charmapValues && c.rowBaseFits && c.rowBaseDisjoint
    && c.settleLegal && c.charmapCanonical

end Configuration

end Sys2Proof
end

