-- ==== Sys2Proof/Machine/State.lean ====
section
/-! DEFINITION. The state of the block as plain data (10_state.md R21), its interfaces (request port, transport port, the
Transport's answers, the delivered statuses) and observation (the bus event trace, 00_scope.md R19), the reasons a step can stop,
and power-on reset (R34, 70_reset_and_hazards.md R148). -/

namespace Sys2Proof.Machine

open Sys2Proof

/-- The completion status of a request (30_encoding.md R79, 60_exceptions.md R129). -/
inductive Status where
  | ok
  | transportError
  | invalidPosition
  | invalidGlyphSlot
  | invalidCharacter
  | invalidOperation
  deriving DecidableEq, Repr, Inhabited

/-- One event of the bus trace (00_scope.md R19). -/
inductive Event where
  /-- `W(b)`: one attempted one-byte write of `byte` to the device at address `device`, with the Transport's answer. The spec's
  event has no address because there is only `DEV_ADDR`; the model records it (log 13). -/
  | write (device : DeviceAddr) (byte : Byte) (answer : Answer)
  /-- `T(t)`: a minimum wait of `us` microseconds. -/
  | wait (us : Micros)
  deriving DecidableEq, Repr

/-- A command of the Session to the Adapter: what a legal transport word says (30_encoding.md R72). Reserved kinds are left out of
the type (40_transport.md R96). -/
inductive Prim where
  | wrInit (nibble : Nibble)
  | wrCmd (cmd : Byte)
  | wrData (value : Byte)
  | setBl (on : Bool)
  | wait (us : Micros)
  deriving DecidableEq, Repr

/-- What a primitive still has to do on the bus: the statements `BusWrite(b)` and `Wait(t)` of 00_scope.md R18. -/
inductive BusAct where
  | busWrite (byte : Byte)
  | wait (us : Micros)
  deriving DecidableEq, Repr

/-- One statement of a Session operation's pseudocode: a transport word for the Adapter, or a state write (41_session.md). The
Session sends bytes only through the Adapter (R117). -/
inductive Act where
  | issue (p : Prim)
  | setCursorX (x : BitVec 8)
  | setCursorY (y : BitVec 2)
  | setImpliedNl (v : Bool)
  | setD (v : Bool)
  | setC (v : Bool)
  | setB (v : Bool)
  deriving DecidableEq, Repr

/-- `SEQ` (10_state.md R30). In `BUSY(op, k)` the position `k` is the list of what is still to come (log 3). -/
inductive Seq where
  | idle
  | busy (op : Instr) (k : List Act)
  deriving DecidableEq, Repr

/-- The machine. -/
structure State where
  /-- The configuration, an argument of the step relation and not state (00_scope.md section 3); no step changes it (log 1). -/
  cfg : Configuration
  /-- `CURSOR_X` (R22). -/
  cursorX : BitVec 8
  /-- `CURSOR_Y` (R23). -/
  cursorY : BitVec 2
  /-- `IMPLIED_NL` (R24). -/
  impliedNl : Bool
  /-- `FLAGS`: BL at bit 3, D at 2, C at 1, B at 0 (R25). -/
  flags : BitVec 4
  /-- `SEQ` (R30). -/
  seq : Seq
  /-- The bus event trace since reset, oldest first (R18, R34). -/
  trace : List Event
  /-- The request words the Host has presented and the block has not taken, first word first (R58; log 6). -/
  hostPort : List RequestWord
  /-- The transport port: the word the Session has given the Adapter, if any (R72, R83; log 7). -/
  adapterPort : Option TransportWord
  /-- The Transport's answers to the writes to come, first write first; after them come free values (R53; log 4). -/
  answers : List Answer
  /-- The model's counter of answers drawn, which the free value reads (log 4). -/
  draws : Nat
  /-- The statuses delivered on the host port since reset, oldest first (R129; log 5). -/
  responses : List Status
  deriving DecidableEq, Repr

/-- Why the machine stops. The block has no condition that stops it: every error is a status (60_exceptions.md R129, R139), so
nothing raises a fault and the type has no constructor (log 20). -/
inductive Fault where
  deriving DecidableEq, Repr

/-- Where the model has no meaning. -/
inductive Refusal where
  /-- `exec` raises it for an instruction that has no meaning yet; safe. -/
  | notModelled (mnemonic : String)
  /-- `step` raises it when the configuration fails a check of 00_scope.md R16: "the model has no meaning for it" (U7); safe
  (log 10). -/
  | illegalConfiguration
  /-- A host request's meaning raises it while `SEQ` is `BUSY`: "the port accepts nothing until the status of the request in
  progress has been delivered" (70_reset_and_hazards.md R154, U19); safe (log 9). -/
  | portNotAccepting
  /-- `step` raises it for a word on the transport port that is no transport word: reserved and never issued (40_transport.md
  R96, U4); safe (log 8). -/
  | reservedTransportWord
  deriving DecidableEq, Repr

/-! One update per field that an instruction writes. -/

/-- `s.CURSOR_X <- x`. -/
def State.withCursorX (s : State) (x : BitVec 8) : State := { s with cursorX := x }

/-- `s.CURSOR_Y <- y`. -/
def State.withCursorY (s : State) (y : BitVec 2) : State := { s with cursorY := y }

/-- `s.IMPLIED_NL <- v`. -/
def State.withImpliedNl (s : State) (v : Bool) : State := { s with impliedNl := v }

/-- `s.FLAGS <- f`. -/
def State.withFlags (s : State) (f : BitVec 4) : State := { s with flags := f }

/-- `s.SEQ <- q`. -/
def State.withSeq (s : State) (q : Seq) : State := { s with seq := q }

/-- The words on the host port. -/
def State.withHostPort (s : State) (words : List RequestWord) : State := { s with hostPort := words }

/-- The word on the transport port. -/
def State.withAdapterPort (s : State) (t : Option TransportWord) : State := { s with adapterPort := t }

/-- Power-on reset of a block with configuration `c` (R34, R148): every field of R34 at its value, no byte sent, no wait issued.
The model's own fields are empty (log 4, log 5). -/
def State.resetWith (c : Configuration) : State :=
  { cfg := c, cursorX := 0, cursorY := 0, impliedNl := false, flags := 0x8, seq := .idle, trace := [],
    hostPort := [], adapterPort := none, answers := [], draws := 0, responses := [] }

/-- The machine right after reset, with the configuration of log 2. -/
def State.reset : State :=
  State.resetWith Config.standard

end Sys2Proof.Machine
end

