-- ==== Sys2Proof/Machine/Flags.lean ====
section
/-! DEFINITION. The FLAGS register (10_state.md R25 to R29): its four bits, their writes, and the one value computed from them, the
composite display-control command (30_encoding.md R76). -/

namespace Sys2Proof.Machine

open Sys2Proof

/-- `FLAGS` with bit `i` at `v` and the other bits as they were. -/
def withFlag (f : BitVec 4) (i : Nat) (v : Bool) : BitVec 4 :=
  if v then f ||| (1#4 <<< i) else f &&& ~~~(1#4 <<< i)

/-- `FLAGS.BL`, bit 3 (R26). -/
def State.bl (s : State) : Bool := s.flags.getLsbD 3

/-- `FLAGS.D`, bit 2 (R27). -/
def State.d (s : State) : Bool := s.flags.getLsbD 2

/-- `FLAGS.C`, bit 1 (R28). -/
def State.c (s : State) : Bool := s.flags.getLsbD 1

/-- `FLAGS.B`, bit 0 (R29). -/
def State.b (s : State) : Bool := s.flags.getLsbD 0

/-- `s.FLAGS.BL <- v`. -/
def State.writeBl (s : State) (v : Bool) : State := s.withFlags (withFlag s.flags 3 v)

/-- `s.FLAGS.D <- v`. -/
def State.writeD (s : State) (v : Bool) : State := s.withFlags (withFlag s.flags 2 v)

/-- `s.FLAGS.C <- v`. -/
def State.writeC (s : State) (v : Bool) : State := s.withFlags (withFlag s.flags 1 v)

/-- `s.FLAGS.B <- v`. -/
def State.writeB (s : State) (v : Bool) : State := s.withFlags (withFlag s.flags 0 v)

/-- One flag as an 8-bit value, 0 or 1. -/
def flagBit (v : Bool) : Byte := (BitVec.ofBool v).setWidth 8

/-- `DCTL(s) = 0x08 | (D << 2) | (C << 1) | B` (R76). -/
def dctl (s : State) : Byte :=
  0x08#8 ||| (flagBit s.d <<< 2) ||| (flagBit s.c <<< 1) ||| flagBit s.b

end Sys2Proof.Machine
end

