-- ==== Sys2Proof/Machine/Operands.lean ====
section
/-! DEFINITION. The values the block computes from operands, tables and configuration: nibbles, the bus byte, the CharMap lookup,
the DDRAM address and the HD44780 command bytes (20_memory.md R41 to R45, 30_encoding.md R73 to R78). -/

namespace Sys2Proof.Machine

open Sys2Proof

/-- `v[7:4]`, the nibble that goes first (20_memory.md R43). -/
def highNibble (v : Byte) : Nibble := v.extractLsb' 4 4

/-- `v[3:0]`. -/
def lowNibble (v : Byte) : Nibble := v.extractLsb' 0 4

/-- `pcf(n, rs, e)` with the backlight flag `bl`: DATA in bits 7:4, BL bit 3, E bit 2, RW (always 0) bit 1, RS bit 0
(R73, R74). -/
def pcf (bl : Bool) (n : Nibble) (rs e : Bool) : Byte :=
  (n.setWidth 8 <<< 4) ||| (flagBit bl <<< 3) ||| (flagBit e <<< 2) ||| (0#8 <<< 1) ||| flagBit rs

/-- The backlight byte of T.SETBL, `v << 3` (40_transport.md R89). -/
def backlightByte (v : Bool) : Byte := flagBit v <<< 3

/-- `CharMap(cp)`: the override if there is one, else the codepoint itself below 0x100, else InvalidCharacter (none)
(20_memory.md R41). -/
def charMap (c : Configuration) (cp : Codepoint) : Option Byte :=
  match c.charmapOverrides.lookup cp.toNat with
  | some g => some (BitVec.ofNat 8 g)
  | none => if cp.toNat < 0x100 then some (cp.setWidth 8) else none

/-- The codepoint of line-feed, U+000A (30_encoding.md R62). -/
def lineFeed : Codepoint := 0x0A#21

/-- `DDRAMAddr(x, y) = zext_7(ROW_BASE[y] + x)` (20_memory.md R42). -/
def ddramAddr (c : Configuration) (x y : Nat) : DdramAddr :=
  BitVec.ofNat 7 ((c.rowBase.at y).toNat + x)

/-- `SETDDRAM(a) = 0x80 | a[6:0]` (30_encoding.md R78). -/
def setDdram (a : DdramAddr) : Byte := 0x80#8 ||| a.setWidth 8

/-- `SETCGRAM(slot) = 0x40 | (slot[2:0] << 3)` (R78). -/
def setCgram (slot : BitVec 8) : Byte := 0x40#8 ||| ((slot.extractLsb' 0 3).setWidth 8 <<< 3)

/-- `FUNCSET = 0x20 | ((ROWS > 1 ? 1 : 0) << 3)` (R77). -/
def funcset (c : Configuration) : Byte := 0x20#8 ||| (flagBit (decide (c.rows > 1)) <<< 3)

/-- CLEAR_DISPLAY (R75). -/
def clearDisplay : Byte := 0x01#8

/-- ENTRY_MODE_SET as the block issues it, increment and no shift (R75). -/
def entryMode : Byte := 0x06#8

/-- The reset nibble (R75). -/
def resetNibble : Nibble := 0x3#4

/-- The 4-bit switch nibble (R75). -/
def switchNibble : Nibble := 0x2#4

/-- `T_SETTLE_US` as a wait length (00_scope.md R13). -/
def settleUs (c : Configuration) : Micros := BitVec.ofNat 20 c.tSettleUs

/-- `DEV_ADDR` as a bus address (00_scope.md R10). -/
def deviceAddr (c : Configuration) : DeviceAddr := BitVec.ofNat 7 c.devAddr

/-- The status word's 3-bit code (30_encoding.md R79). -/
def Status.code : Status → BitVec 3
  | .ok => 0
  | .transportError => 1
  | .invalidPosition => 2
  | .invalidGlyphSlot => 3
  | .invalidCharacter => 4
  | .invalidOperation => 5

end Sys2Proof.Machine
end

