-- ==== Sys2Proof/Machine/Ops.lean ====
section
/-! DEFINITION. The pseudocode primitives of 00_scope.md R18 (BusWrite, Wait, raise, return) and the one way an operation ends:
its status delivered and SEQ back at IDLE (60_exceptions.md R139). No trap exists, so this completion is all that "taking an
exception" means on this block, and there is no return from one (R141). -/

namespace Sys2Proof.Machine

open Sys2Proof

/-- How a run of pseudocode ends: it reached its end, or it raised an error; the state holds every write and event made so far
(R18). -/
inductive Ran where
  | done (s : State)
  | raised (e : Status) (s : State)
  deriving DecidableEq, Repr

/-- "Pseudocode runs top to bottom"; "nothing after the `raise` point happens" (R18). -/
def Ran.andThen : Ran → (State → Ran) → Ran
  | .done s, f => f s
  | .raised e s, _ => .raised e s

/-- The state a run ended in. -/
def Ran.state : Ran → State
  | .done s => s
  | .raised _ s => s

/-- The status a run ends with: OK, or the error raised (R139). -/
def Ran.status : Ran → Status
  | .done _ => .ok
  | .raised e _ => e

/-- The Transport's answer to the `j`-th write to come: a scheduled one, or a free value (20_memory.md R53; log 4). -/
def State.upcoming (s : State) (j : Nat) : Answer :=
  match s.answers[j]? with
  | some a => a
  | none => Config.freeAnswer (s.draws + j)

/-- The state after the event `W(b)` with answer `a`: the event is appended and the answer is used up. -/
def State.afterWrite (s : State) (b : Byte) (a : Answer) : State :=
  { s with
    trace := s.trace ++ [.write (deviceAddr s.cfg) b a]
    answers := s.answers.tail
    draws := s.draws + 1 }

/-- The state after the event `T(t)`. -/
def State.afterWait (s : State) (t : Micros) : State :=
  { s with trace := s.trace ++ [.wait t] }

/-- `BusWrite(b)`: one one-byte transaction to `DEV_ADDR`; on ERR it raises TransportError (R18, 40_transport.md R91). -/
def busWrite (b : Byte) (s : State) : Ran :=
  match s.upcoming 0 with
  | .ack => .done (s.afterWrite b .ack)
  | .err => .raised .transportError (s.afterWrite b .err)

/-- The bus statements of a primitive, in order; the first write answered ERR is the last event (R18, R51). -/
def runBus : List BusAct → State → Ran
  | [], s => .done s
  | .busWrite b :: rest, s => (busWrite b s).andThen (runBus rest)
  | .wait t :: rest, s => runBus rest (s.afterWait t)

/-- The end of an operation: "it delivers the status on the host port, and it sets `SEQ <- IDLE`" (R139). -/
def State.complete (s : State) (st : Status) : State :=
  { s with responses := s.responses ++ [st], seq := .idle }

end Sys2Proof.Machine
end

