-- ==== Sys2Proof/Machine/Adapter.lean ====
section
/-! DEFINITION. The Transport/Protocol Adapter (40_transport.md): the enable pulse, the five primitives as the Session issues them,
and the meanings of the five transport words. -/

namespace Sys2Proof.Machine

open Sys2Proof

/-! ## The bus statements of each primitive -/

/-- `Pulse(b)`: E = 1, then E = 0, two separate one-byte writes (R84). -/
def pulse (b : Byte) : List BusAct :=
  [.busWrite (b ||| 0x04#8), .busWrite b]

/-- The two pulses of one 8-bit value, high nibble first (R86, R88, 20_memory.md R43). -/
def pulsePair (bl : Bool) (v : Byte) (rs : Bool) : List BusAct :=
  pulse (pcf bl (highNibble v) rs false) ++ pulse (pcf bl (lowNibble v) rs false)

/-- `PostCommandWait(c)` (R87). -/
def postCommandWait (c : Configuration) (cmd : Byte) : List BusAct :=
  if cmd.toNat ≤ 0x03 then [.wait 5000#20] else [.wait (settleUs c)]

/-- The pseudocode of T.WRINIT (R85). -/
def wrInitBus (bl : Bool) (n : Nibble) : List BusAct :=
  pulse (pcf bl n false false)

/-- The pseudocode of T.WRCMD (R86). -/
def wrCmdBus (c : Configuration) (bl : Bool) (cmd : Byte) : List BusAct :=
  pulsePair bl cmd false ++ postCommandWait c cmd

/-- The pseudocode of T.WRDATA (R88). -/
def wrDataBus (c : Configuration) (bl : Bool) (value : Byte) : List BusAct :=
  pulsePair bl value true ++ [.wait (settleUs c)]

/-! ## The primitives -/

/-- T.WRINIT (R85). -/
def wrInit (n : Nibble) (s : State) : Ran :=
  runBus (wrInitBus s.bl n) s

/-- T.WRCMD (R86). -/
def wrCmd (cmd : Byte) (s : State) : Ran :=
  runBus (wrCmdBus s.cfg s.bl cmd) s

/-- T.WRDATA (R88). -/
def wrData (value : Byte) (s : State) : Ran :=
  runBus (wrDataBus s.cfg s.bl value) s

/-- T.SETBL: the flag first, then the byte, "so it stays written even if the write fails" (R89). -/
def setBl (v : Bool) (s : State) : Ran :=
  runBus [.busWrite (backlightByte v)] (s.writeBl v)

/-- T.WAIT (R90). -/
def waitUs (t : Micros) (s : State) : Ran :=
  runBus [.wait t] s

/-- The primitive a Session command asks for (R72). -/
def runPrim : Prim → State → Ran
  | .wrInit n => wrInit n
  | .wrCmd c => wrCmd c
  | .wrData d => wrData d
  | .setBl v => setBl v
  | .wait t => waitUs t

/-- The transport instruction of a Session command (R72). -/
def Prim.toInstr : Prim → Instr
  | .wrInit n => .tWrinit n
  | .wrCmd c => .tWrcmd c
  | .wrData d => .tWrdata d
  | .setBl v => .tSetbl v
  | .wait t => .tWait t

/-- The transport word of a Session command (R72). -/
def Prim.word (p : Prim) : TransportWord :=
  match encode p.toInstr with
  | .transport t => t
  | .request _ => 0

/-! ## The meanings of the transport words -/

/-- The state a transport word ends in. When its primitive raises an error, "the Session operation that issued it also ends at
once with status TransportError" (R91); with no operation in progress there is nobody to report to and only the trace shows it
(log 7). -/
def Ran.transportState : Ran → State
  | .done s => s
  | .raised e s =>
    match s.seq with
    | .idle => s
    | .busy _ _ => s.complete e

/-- A transport word never stops the machine: it ends in the state `Ran.transportState` says. -/
def transportEnd (r : Ran) : Host.Outcome State Fault Refusal :=
  .next r.transportState

/-- T.WRINIT (R85). -/
def execTWrinit (n : Nibble) (s : State) : Host.Outcome State Fault Refusal :=
  transportEnd (wrInit n s)

/-- T.WRCMD (R86). -/
def execTWrcmd (cmd : Byte) (s : State) : Host.Outcome State Fault Refusal :=
  transportEnd (wrCmd cmd s)

/-- T.WRDATA (R88). -/
def execTWrdata (value : Byte) (s : State) : Host.Outcome State Fault Refusal :=
  transportEnd (wrData value s)

/-- T.SETBL (R89). -/
def execTSetbl (on : Bool) (s : State) : Host.Outcome State Fault Refusal :=
  transportEnd (setBl on s)

/-- T.WAIT (R90). -/
def execTWait (us : Micros) (s : State) : Host.Outcome State Fault Refusal :=
  transportEnd (waitUs us s)

end Sys2Proof.Machine
end

