-- ==== Sys2Proof/Machine/Sequencer.lean ====
section
/-! DEFINITION. How the Session runs an operation (10_state.md R30, 00_scope.md R18): the pseudocode of an operation as a list of
statements, run to its end in one step, or one statement at a time from BUSY(op, k). -/

namespace Sys2Proof.Machine

open Sys2Proof

/-- A state write of the Session; an issued transport word writes no Session state. -/
def Act.write : Act → State → State
  | .issue _, s => s
  | .setCursorX x, s => s.withCursorX x
  | .setCursorY y, s => s.withCursorY y
  | .setImpliedNl v, s => s.withImpliedNl v
  | .setD v, s => s.writeD v
  | .setC v, s => s.writeC v
  | .setB v, s => s.writeB v

/-- One statement: the Adapter runs an issued word to its end before the Session goes on (40_transport.md R83). -/
def runAct : Act → State → Ran
  | .issue p, s => runPrim p s
  | a, s => .done (a.write s)

/-- The statements of an operation, top to bottom; a `raise` ends it (R18). -/
def runActs : List Act → State → Ran
  | [], s => .done s
  | a :: k, s => (runAct a s).andThen (runActs k)

/-- The end of an operation's run: its status delivered, `SEQ <- IDLE` (60_exceptions.md R139). -/
def Ran.completed (r : Ran) : State :=
  r.state.complete r.status

/-- Run the operation in progress to its end. -/
def finish (s : State) : State :=
  match s.seq with
  | .idle => s
  | .busy _ k => (runActs k s).completed

/-- A host request whose checks have passed: taken at `IDLE`, run as `BUSY(op, k)` to its end (R30, log 3); not accepted while
another is in progress (70_reset_and_hazards.md R154, log 9). -/
def perform (op : Instr) (k : List Act) (s : State) : Host.Outcome State Fault Refusal :=
  match s.seq with
  | .idle => .next (finish (s.withSeq (.busy op k)))
  | .busy _ _ => .refused .portNotAccepting

/-- A host request that fails its operand check: the status, and no other effect (60_exceptions.md R136). -/
def reject (e : Status) (s : State) : Host.Outcome State Fault Refusal :=
  match s.seq with
  | .idle => .next (s.complete e)
  | .busy _ _ => .refused .portNotAccepting

/-- One statement of the operation in progress, from `BUSY(op, k)`: at the end of `k` the operation completes with OK; a transport
word goes on the transport port, where the next step takes it; a state write happens (R30, log 3). -/
def advance (op : Instr) (k : List Act) (s : State) : State :=
  match k with
  | [] => s.complete .ok
  | .issue p :: rest => (s.withAdapterPort (some p.word)).withSeq (.busy op rest)
  | a :: rest => (a.write s).withSeq (.busy op rest)

end Sys2Proof.Machine
end

