-- ==== Sys2Proof/Machine/Session.lean ====
section
/-! DEFINITION. The meanings of the nine host requests (41_session.md). Each operation is its rule's pseudocode as a list of
statements; values the pseudocode reads from the state are read when the request is taken, and nothing else can change them before
they are used (log 11). -/

namespace Sys2Proof.Machine

open Sys2Proof

/-! ## Helpers -/

/-- `SyncAddr(x, y)`: one set-DDRAM command (R97). -/
def syncAddr (c : Configuration) (x y : Nat) : Act :=
  .issue (.wrCmd (setDdram (ddramAddr c x y)))

/-- `IssueDCTL()` in state `s` (R98). -/
def issueDctl (s : State) : Act :=
  .issue (.wrCmd (dctl s))

/-- The last three statements of INIT and of CLEAR (R99, R100). -/
def homeCursor : List Act :=
  [.setCursorX 0, .setCursorY 0, .setImpliedNl false]

/-! ## INIT and CLEAR -/

/-- The reset handshake of INIT, up to the function-set command (R99). -/
def initHandshake (s : State) : List Act :=
  [.issue (.setBl s.bl), .issue (.wait 20000#20),
   .issue (.wrInit resetNibble), .issue (.wait 5000#20),
   .issue (.wrInit resetNibble), .issue (.wait 1000#20),
   .issue (.wrInit resetNibble), .issue (.wait 1000#20)]
  ++ if s.cfg.initSwitchNibble then [.issue (.wrInit switchNibble), .issue (.wait 1000#20)] else []

/-- The pseudocode of INIT (R99). -/
def initActs (s : State) : List Act :=
  initHandshake s
  ++ [.issue (.wrCmd (funcset s.cfg)), .issue (.wrCmd entryMode), .setD true, issueDctl (s.writeD true),
      .issue (.wrCmd clearDisplay)]
  ++ homeCursor

/-- INIT (R99). -/
def execInit (s : State) : Host.Outcome State Fault Refusal :=
  perform .init (initActs s) s

/-- The pseudocode of CLEAR (R100). -/
def clearActs : List Act :=
  .issue (.wrCmd clearDisplay) :: homeCursor

/-- CLEAR (R100). -/
def execClear (s : State) : Host.Outcome State Fault Refusal :=
  perform .clear clearActs s

/-! ## MOVETO -/

/-- The pseudocode of MOVETO after its check: the cursor first, then the command (R101). -/
def movetoActs (c : Configuration) (col row : BitVec 8) : List Act :=
  [.setCursorX col, .setCursorY (row.setWidth 2), syncAddr c col.toNat row.toNat]

/-- MOVETO (R101). -/
def execMoveto (col row : BitVec 8) (s : State) : Host.Outcome State Fault Refusal :=
  if col.toNat ≥ s.cfg.cols ∨ row.toNat ≥ s.cfg.rows then reject .invalidPosition s
  else perform (.moveto col row) (movetoActs s.cfg col row) s

/-! ## PUTCHAR -/

/-- The column after steps 3 and 4, from column `x` after step 1 or 2 (R104). -/
def wrapColumn (c : Configuration) (x : Nat) : Nat :=
  if x ≥ c.cols then 0 else x

/-- The row after step 3, before step 4 (R104); an exact number, which may be `ROWS` (log 12). -/
def stepRow (c : Configuration) (x y : Nat) : Nat :=
  if x ≥ c.cols then y + 1 else y

/-- The row after step 4: "no scroll" (R104). -/
def wrapRow (c : Configuration) (x y : Nat) : Nat :=
  if stepRow c x y ≥ c.rows then 0 else stepRow c x y

/-- Steps 3 to 5 of PUTCHAR at column `x` and row `y` (R102, R104). -/
def wrapActs (c : Configuration) (x y : Nat) (isLineFeed : Bool) : List Act :=
  (if x ≥ c.cols then [.setCursorX 0, .setCursorY (BitVec.ofNat 2 (y + 1)), .setImpliedNl (!isLineFeed)] else [])
  ++ (if stepRow c x y ≥ c.rows then [.setCursorY 0] else [])
  ++ [syncAddr c (wrapColumn c x) (wrapRow c x y)]

/-- PUTCHAR of a line-feed that is not suppressed: step 1 forces the wrap (R102). -/
def lineFeedActs (s : State) : List Act :=
  .setCursorX (BitVec.ofNat 8 s.cfg.cols) :: wrapActs s.cfg s.cfg.cols s.cursorY.toNat true

/-- PUTCHAR of a character with glyph code `g`: step 2, then steps 3 to 5 (R102). -/
def characterActs (g : Byte) (s : State) : List Act :=
  .issue (.wrData g) :: .setCursorX (BitVec.ofNat 8 (s.cursorX.toNat + 1))
    :: wrapActs s.cfg (s.cursorX.toNat + 1) s.cursorY.toNat false

/-- PUTCHAR (R102); a line-feed after an automatic wrap only clears the flag (R103). -/
def execPutchar (cp : Codepoint) (s : State) : Host.Outcome State Fault Refusal :=
  if cp = lineFeed then
    if s.impliedNl then perform (.putchar cp) [.setImpliedNl false] s
    else perform (.putchar cp) (lineFeedActs s) s
  else
    match charMap s.cfg cp with
    | none => reject .invalidCharacter s
    | some g => perform (.putchar cp) (characterActs g s) s

/-! ## The flag operations -/

/-- SETBL (R107). -/
def execSetbl (v : Bool) (s : State) : Host.Outcome State Fault Refusal :=
  perform (.setbl v) [.issue (.setBl v)] s

/-- SETDISP (R108). -/
def execSetdisp (v : Bool) (s : State) : Host.Outcome State Fault Refusal :=
  perform (.setdisp v) [.setD v, issueDctl (s.writeD v)] s

/-- SETCURSOR (R109). -/
def execSetcursor (v : Bool) (s : State) : Host.Outcome State Fault Refusal :=
  perform (.setcursor v) [.setC v, issueDctl (s.writeC v)] s

/-- SETBLINK (R110). -/
def execSetblink (v : Bool) (s : State) : Host.Outcome State Fault Refusal :=
  perform (.setblink v) [.setB v, issueDctl (s.writeB v)] s

/-! ## GLYPH -/

/-- The pseudocode of GLYPH after its check: the slot's CGRAM address, the eight bytes unmasked in index order, and DDRAM
addressing restored at the cursor (R111, 20_memory.md R44, R56). -/
def glyphActs (slot : BitVec 8) (p : Vector Byte 8) (s : State) : List Act :=
  .issue (.wrCmd (setCgram slot)) :: p.toList.map (fun b => .issue (.wrData b))
    ++ [syncAddr s.cfg s.cursorX.toNat s.cursorY.toNat]

/-- GLYPH (R111). -/
def execGlyph (slot : BitVec 8) (p : Vector Byte 8) (s : State) : Host.Outcome State Fault Refusal :=
  if slot.toNat > 7 then reject .invalidGlyphSlot s
  else perform (.glyph slot p) (glyphActs slot p s) s

end Sys2Proof.Machine
end

