-- ==== Sys2Proof/Machine/Dispatch.lean ====
section
/-! DEFINITION. Which meaning each instruction has. -/

namespace Sys2Proof.Machine

open Sys2Proof

/-- The meaning of an instruction in a state. -/
def exec (i : Instr) (s : State) : Host.Outcome State Fault Refusal :=
  match i with
  -- host requests (41_session.md)
  | .init => Sys2Proof.Machine.execInit s
  | .clear => Sys2Proof.Machine.execClear s
  | .putchar cp => Sys2Proof.Machine.execPutchar cp s
  | .moveto col row => Sys2Proof.Machine.execMoveto col row s
  | .setbl v => Sys2Proof.Machine.execSetbl v s
  | .setdisp v => Sys2Proof.Machine.execSetdisp v s
  | .setcursor v => Sys2Proof.Machine.execSetcursor v s
  | .setblink v => Sys2Proof.Machine.execSetblink v s
  | .glyph slot p => Sys2Proof.Machine.execGlyph slot p s
  -- transport words (40_transport.md)
  | .tWrinit n => Sys2Proof.Machine.execTWrinit n s
  | .tWrcmd c => Sys2Proof.Machine.execTWrcmd c s
  | .tWrdata d => Sys2Proof.Machine.execTWrdata d s
  | .tSetbl v => Sys2Proof.Machine.execTSetbl v s
  | .tWait t => Sys2Proof.Machine.execTWait t s

end Sys2Proof.Machine
end

