-- ==== Sys2Proof/Machine/Fetch.lean ====
section
/-! DEFINITION. Where the block's next instruction comes from: the transport port, driven by the Session, and the host request
port (30_encoding.md R58, R69, R72). -/

namespace Sys2Proof.Machine

open Sys2Proof

/-- A word on the transport port: the Adapter runs it; a reserved word is never issued and has no meaning (R96, log 8). -/
def stepTransport (t : TransportWord) (s : State) : Host.Outcome State Fault Refusal :=
  match decodeTransport t with
  | .ok i => exec i (s.withAdapterPort none)
  | .error _ => .refused .reservedTransportWord

/-- The host port at `IDLE`: a whole request is taken and decoded before anything else (R69, 60_exceptions.md R137); an undecodable
one completes with InvalidOperation and no other effect (R70, R71, R134); with no whole request the block waits
(70_reset_and_hazards.md R149, log 6). -/
def stepRequest (s : State) : Host.Outcome State Fault Refusal :=
  match takeRequest s.hostPort with
  | none => .next s
  | some (r, after) =>
    match decodeRequest r with
    | .ok i => exec i (s.withHostPort after)
    | .error _ => reject .invalidOperation (s.withHostPort after)

/-- One step of the Sequencer in a legal configuration. -/
def stepSequencer (s : State) : Host.Outcome State Fault Refusal :=
  match s.adapterPort with
  | some t => stepTransport t s
  | none =>
    match s.seq with
    | .busy op k => .next (advance op k s)
    | .idle => stepRequest s

/-- `s` with an instruction of the opcode table where the next step takes it: a 24-bit row on the transport port, any other row at
the head of the host port, with the port ready to be read (log 15). -/
def placeTableWord (s : State) (nbits w : Nat) : State :=
  if nbits ≤ 24 then s.withAdapterPort (some (BitVec.ofNat 24 w))
  else ((s.withAdapterPort none).withSeq .idle).withHostPort (requestWordsOf w ++ s.hostPort)

end Sys2Proof.Machine
end

