-- ==== Sys2Proof/Machine/Step.lean ====
section
/-! DEFINITION. One step of the machine, and where a test places its next instruction. -/

namespace Sys2Proof.Machine

open Sys2Proof

/-- One step. "A model is defined only for a configuration that passes every one of these named checks" (00_scope.md R16, U7,
log 10). -/
def step (s : State) : Host.Outcome State Fault Refusal :=
  if s.cfg.wf then stepSequencer s else .refused .illegalConfiguration

/-- `s` with the instruction whose bits are `w` where `step` takes its next instruction (log 15). -/
def State.withFetchWord (s : State) (nbits w : Nat) : State :=
  placeTableWord s nbits w

end Sys2Proof.Machine
end

