-- ==== Sys2Proof/Machine/Pseudo.lean ====
section
/-! DEFINITION. The host's side of the request port: one request and its status, the pseudo-instructions with their expansions
(30_encoding.md R81), PUTSTR (41_session.md R106) and CONSTRUCT (70_reset_and_hazards.md R148, R150). None of them is an
instruction: they are sequences of requests. In a configuration that fails a check of 00_scope.md R16 none of them has a meaning
(U7, log 10), and a block in the middle of an operation takes neither a request (R154, U19, log 9) nor a reset (R155, U21, log 23);
the answer is then none (log 19). -/

namespace Sys2Proof.Machine

open Sys2Proof

/-- A host request, as opposed to a transport word (30_encoding.md R59, R72). -/
def isHostRequest : Instr → Bool
  | .init | .clear | .putchar _ | .moveto _ _ | .setbl _ | .setdisp _ | .setcursor _ | .setblink _ | .glyph _ _ => true
  | .tWrinit _ | .tWrcmd _ | .tWrdata _ | .tSetbl _ | .tWait _ => false

/-- Whether a host may issue `i` at all: "a model is defined only for a configuration that passes every one of these named checks"
(00_scope.md R16), and "the host request port cannot issue a transport word" (40_transport.md R83). -/
def State.hostMayIssue (s : State) (i : Instr) : Bool :=
  s.cfg.wf && isHostRequest i

/-- `st <- request(op)`: the status delivered for a host request and the state after it (R129, R139). None where the host may not
issue it, or the port does not take it (R154). -/
def hostRequest (i : Instr) (s : State) : Option (Status × State) :=
  if s.hostMayIssue i then
    match exec i s with
    | .next t => t.responses.getLast?.map fun st => (st, t)
    | .fault _ => none
    | .refused _ => none
  else none

/-- The host issues requests in order and goes on whatever their statuses; the answer is every status, in order. -/
def hostRequests : List Instr → State → Option (List Status × State)
  | [], s => if s.cfg.wf then some ([], s) else none
  | i :: rest, s =>
    match hostRequest i s with
    | none => none
    | some (st, t) => (hostRequests rest t).map fun r => (st :: r.1, r.2)

/-- The host issues requests in order and stops after the first whose status is not OK; the answer is that status and how many
requests completed with OK before it (R106). -/
def hostSequence : List Instr → State → Option ((Status × Nat) × State)
  | [], s => if s.cfg.wf then some ((.ok, 0), s) else none
  | i :: rest, s =>
    match hostRequest i s with
    | none => none
    | some (.ok, t) => (hostSequence rest t).map fun r => ((r.1.1, r.1.2 + 1), r.2)
    | some (st, t) => some ((st, 0), t)

/-- `PUTSTR(s)` (R106). -/
def putString (codepoints : List Codepoint) (s : State) : Option ((Status × Nat) × State) :=
  hostSequence (codepoints.map .putchar) s

/-- The state after power-on reset with configuration `c` (R148). What the model holds of the world outside, the words the Host is
about to present and the Transport's answers to come, is not the block's to reset (log 23). -/
def State.afterPowerOn (s : State) (c : Configuration) : State :=
  { State.resetWith c with hostPort := s.hostPort, answers := s.answers, draws := s.draws }

/-- Power-on reset with configuration `c` (R148), of a block at an operation boundary. "A power-on reset while `BUSY` is outside the
model" (R155, U21), and so is a configuration that fails a check of R16 (U7): the answer is then none. -/
def powerOn (c : Configuration) (s : State) : Option State :=
  match s.seq with
  | .idle => if c.wf then some (s.afterPowerOn c) else none
  | .busy _ _ => none

/-- `construct(bus, address, rows, cols)`: bind the configuration, power-on reset, then INIT; it ends with INIT's status (R150). None
where there is no such reset. -/
def construct (c : Configuration) (s : State) : Option (Status × State) :=
  match powerOn c s with
  | none => none
  | some t => hostRequest .init t

/-- The pseudo-instructions of R81. -/
inductive Pseudo where
  | putstr (codepoints : List Codepoint)
  | blon
  | bloff
  | dispon
  | dispoff
  | cursoron
  | cursoroff
  | blinkon
  | blinkoff
  | construct
  deriving DecidableEq, Repr

/-- The requests a pseudo-instruction expands to (R81); CONSTRUCT's power-on reset, which is no request, comes before its INIT. -/
def Pseudo.expansion : Pseudo → List Instr
  | .putstr cps => cps.map .putchar
  | .blon => [.setbl true]
  | .bloff => [.setbl false]
  | .dispon => [.setdisp true]
  | .dispoff => [.setdisp false]
  | .cursoron => [.setcursor true]
  | .cursoroff => [.setcursor false]
  | .blinkon => [.setblink true]
  | .blinkoff => [.setblink false]
  | .construct => [.init]

/-- Run a pseudo-instruction (R81). -/
def runPseudo (p : Pseudo) (s : State) : Option ((Status × Nat) × State) :=
  match p with
  | .construct =>
    match powerOn s.cfg s with
    | none => none
    | some t => hostSequence p.expansion t
  | .putstr _ => hostSequence p.expansion s
  | .blon => hostSequence p.expansion s
  | .bloff => hostSequence p.expansion s
  | .dispon => hostSequence p.expansion s
  | .dispoff => hostSequence p.expansion s
  | .cursoron => hostSequence p.expansion s
  | .cursoroff => hostSequence p.expansion s
  | .blinkon => hostSequence p.expansion s
  | .blinkoff => hostSequence p.expansion s

end Sys2Proof.Machine
end

