-- ==== Sys2Proof/Machine/Asm.lean ====
section
/-! DEFINITION. The assembler syntax of 30_encoding.md R80 and R81: one request a line, upper-case mnemonics, operands separated by
commas; and the written form of requests, transport words and bus events. Text is a list of characters. The details R80 leaves open
are in log 18. -/

namespace Sys2Proof.Machine

open Sys2Proof

/-! ## Reading -/

/-- The value of a digit of base 16 or less, either case. -/
def digitValue (ch : Char) : Option Nat :=
  let n := ch.toNat
  if 0x30 ≤ n ∧ n ≤ 0x39 then some (n - 0x30)
  else if 0x41 ≤ n ∧ n ≤ 0x46 then some (n - 0x41 + 10)
  else if 0x61 ≤ n ∧ n ≤ 0x66 then some (n - 0x61 + 10)
  else none

/-- Digits of a base, continuing from a value already read. -/
def readDigits (base : Nat) : List Char → Nat → Option Nat
  | [], n => some n
  | ch :: rest, n =>
    match digitValue ch with
    | some v => if v < base then readDigits base rest (n * base + v) else none
    | none => none

/-- `0xhh` or decimal, the two forms of a number R80 writes; `0x` is lower case and one digit or more follows: DESIGN CHOICE
(log 18). -/
def readNumber : List Char → Option Nat
  | [] => none
  | '0' :: 'x' :: ch :: rest => readDigits 16 (ch :: rest) 0
  | text => readDigits 10 text 0

/-- A number that fits in `w` bits. `<col>`, `<row>`, `<slot>` and `<b0>` to `<b7>` are read so, in `0x` or decimal form and no other:
R80 gives forms for `<cp>` and `<v>` alone, and a character or `U+` form is not taken there: DESIGN CHOICE (log 18). -/
def readBits (w : Nat) (text : List Char) : Option (BitVec w) :=
  match readNumber text with
  | some n => if n < 2 ^ w then some (BitVec.ofNat w n) else none
  | none => none

/-- `<v>`: 0, 1, off or on. -/
def readSwitch (text : List Char) : Option Bool :=
  if text = "0".toList ∨ text = "off".toList then some false
  else if text = "1".toList ∨ text = "on".toList then some true
  else none

/-- The character that encloses a character operand. -/
def apostrophe : Char := Char.ofNat 0x27

/-- The character that encloses a string operand. -/
def quoteMark : Char := Char.ofNat 0x22

/-- `<cp>`: `'c'`, `U+hhhh`, `0xhh` or decimal (R80). `c` is any one character, an apostrophe among them, and any number of digits
that fits in 21 bits is read: DESIGN CHOICE (log 18). -/
def readCodepoint : List Char → Option Codepoint
  | 'U' :: '+' :: ch :: rest =>
    match readDigits 16 (ch :: rest) 0 with
    | some n => if n < 2 ^ 21 then some (BitVec.ofNat 21 n) else none
    | none => none
  | [open', ch, close] =>
    if open' = apostrophe ∧ close = apostrophe then some (BitVec.ofNat 21 ch.toNat) else readBits 21 [open', ch, close]
  | text => readBits 21 text

/-- Text without the spaces at its two ends. -/
def trimSpaces (text : List Char) : List Char :=
  ((text.dropWhile (· == ' ')).reverse.dropWhile (· == ' ')).reverse

/-- The operands between commas. -/
def splitOperands : List Char → List (List Char)
  | [] => [[]]
  | ch :: rest =>
    match splitOperands rest with
    | [] => [[ch]]
    | first :: others => if ch = ',' then [] :: first :: others else (ch :: first) :: others

/-- What a line of assembler text is. -/
inductive AsmLine where
  | request (i : Instr)
  | pseudo (p : Pseudo)
  deriving DecidableEq, Repr

/-- A line with no operand. -/
def assembleBare (mnemonic : List Char) : Option AsmLine :=
  if mnemonic = "INIT".toList then some (.request .init)
  else if mnemonic = "CLEAR".toList then some (.request .clear)
  else if mnemonic = "BLON".toList then some (.pseudo .blon)
  else if mnemonic = "BLOFF".toList then some (.pseudo .bloff)
  else if mnemonic = "DISPON".toList then some (.pseudo .dispon)
  else if mnemonic = "DISPOFF".toList then some (.pseudo .dispoff)
  else if mnemonic = "CURSORON".toList then some (.pseudo .cursoron)
  else if mnemonic = "CURSOROFF".toList then some (.pseudo .cursoroff)
  else if mnemonic = "BLINKON".toList then some (.pseudo .blinkon)
  else if mnemonic = "BLINKOFF".toList then some (.pseudo .blinkoff)
  else if mnemonic = "CONSTRUCT".toList then some (.pseudo .construct)
  else none

/-- The flag operations, whose one operand is `<v>`. -/
def switchRequest (mnemonic : List Char) (v : Bool) : Option Instr :=
  if mnemonic = "SETBL".toList then some (.setbl v)
  else if mnemonic = "SETDISP".toList then some (.setdisp v)
  else if mnemonic = "SETCURSOR".toList then some (.setcursor v)
  else if mnemonic = "SETBLINK".toList then some (.setblink v)
  else none

/-- `GLYPH <slot>, <b0>, ..., <b7>`. -/
def readGlyph : List (List Char) → Option Instr
  | [s, b0, b1, b2, b3, b4, b5, b6, b7] => do
    let slot ← readBits 8 s
    let v0 ← readBits 8 b0
    let v1 ← readBits 8 b1
    let v2 ← readBits 8 b2
    let v3 ← readBits 8 b3
    let v4 ← readBits 8 b4
    let v5 ← readBits 8 b5
    let v6 ← readBits 8 b6
    let v7 ← readBits 8 b7
    return .glyph slot #v[v0, v1, v2, v3, v4, v5, v6, v7]
  | _ => none

/-- The codepoints of a string operand: every character between the first quote mark and the last, a quote mark among them, with no
escape. R81 says nothing of a quote mark inside a string: DESIGN CHOICE (log 18). -/
def readString (text : List Char) : Option (List Codepoint) :=
  match text with
  | [] => none
  | first :: rest =>
    match rest.reverse with
    | [] => none
    | last :: inside =>
      if first = quoteMark ∧ last = quoteMark then some (inside.reverse.map fun ch => BitVec.ofNat 21 ch.toNat) else none

/-- A line with operands. -/
def assembleWith (mnemonic operands : List Char) : Option AsmLine :=
  if mnemonic = "PUTCHAR".toList then (readCodepoint operands).map fun cp => .request (.putchar cp)
  else if mnemonic = "PUTSTR".toList then (readString operands).map fun cps => .pseudo (.putstr cps)
  else if mnemonic = "MOVETO".toList then
    match (splitOperands operands).map trimSpaces with
    | [col, row] =>
      match readBits 8 col, readBits 8 row with
      | some c, some r => some (.request (.moveto c r))
      | _, _ => none
    | _ => none
  else if mnemonic = "GLYPH".toList then
    (readGlyph ((splitOperands operands).map trimSpaces)).map .request
  else
    match readSwitch operands with
    | some v => (switchRequest mnemonic v).map .request
    | none => none

/-- One line (R80, R81): the mnemonic, then a space and the operands where there are any. Spaces at either end are dropped, an empty
line is none, and there are no comments: DESIGN CHOICE (log 18). -/
def assembleLine (line : List Char) : Option AsmLine :=
  let text := trimSpaces line
  let mnemonic := text.takeWhile (· != ' ')
  let operands := trimSpaces (text.dropWhile (· != ' '))
  if operands = [] then assembleBare mnemonic else assembleWith mnemonic operands

/-! ## Writing -/

/-- One hexadecimal digit, upper case as the spec writes it. -/
def hexDigit (n : Nat) : Char :=
  if n < 10 then Char.ofNat (0x30 + n) else Char.ofNat (0x41 + n - 10)

/-- `0xhh`. -/
def writeByte (b : Byte) : List Char :=
  ['0', 'x', hexDigit (b.toNat / 16), hexDigit (b.toNat % 16)]

/-- The decimal digits of a number below `10 ^ fuel`, before digits already written. -/
def decimalDigits : Nat → Nat → List Char → List Char
  | 0, _, after => after
  | fuel + 1, n, after =>
    let now := hexDigit (n % 10) :: after
    if n / 10 = 0 then now else decimalDigits fuel (n / 10) now

/-- Decimal; seven digits hold every number the block writes (at most 2^21 - 1). -/
def writeDecimal (n : Nat) : List Char := decimalDigits 7 n []

/-- 0 or 1. -/
def writeSwitch (v : Bool) : List Char := if v then ['1'] else ['0']

/-- A request or a transport word as R80 writes it, each operand in one of the forms it allows: DESIGN CHOICE (log 18). -/
def writeInstr : Instr → List Char
  | .init => "INIT".toList
  | .clear => "CLEAR".toList
  | .putchar cp => "PUTCHAR ".toList ++ writeDecimal cp.toNat
  | .moveto col row => "MOVETO ".toList ++ writeDecimal col.toNat ++ ", ".toList ++ writeDecimal row.toNat
  | .setbl v => "SETBL ".toList ++ writeSwitch v
  | .setdisp v => "SETDISP ".toList ++ writeSwitch v
  | .setcursor v => "SETCURSOR ".toList ++ writeSwitch v
  | .setblink v => "SETBLINK ".toList ++ writeSwitch v
  | .glyph slot p => "GLYPH ".toList ++ writeDecimal slot.toNat ++ p.toList.flatMap fun b => ", ".toList ++ writeByte b
  | .tWrinit n => "T.WRINIT ".toList ++ ['0', 'x', hexDigit n.toNat]
  | .tWrcmd c => "T.WRCMD ".toList ++ writeByte c
  | .tWrdata d => "T.WRDATA ".toList ++ writeByte d
  | .tSetbl v => "T.SETBL ".toList ++ writeSwitch v
  | .tWait t => "T.WAIT ".toList ++ writeDecimal t.toNat

/-- A bus event as R80 writes it, with the test vectors' `!ERR` after a write that was answered ERR (95_test_vectors.md). -/
def writeEvent : Event → List Char
  | .write _ b .ack => "W(".toList ++ writeByte b ++ ")".toList
  | .write _ b .err => "W(".toList ++ writeByte b ++ ")!ERR".toList
  | .wait t => "T(".toList ++ writeDecimal t.toNat ++ ")".toList

end Sys2Proof.Machine
end

