-- ==== Sys2Proof/Safety.lean ====
section
/-! DEFINITION. The terms claims are stated in: the boundary invariant (10_state.md R31), the Transport's answers to the next writes
(20_memory.md R53), what a trace promises about time (R52) and about framing (70_reset_and_hazards.md R156), and the part of a
trace that an ERR leaves (00_scope.md R18). The step uses none of them. -/

namespace Sys2Proof.Machine

open Sys2Proof

/-! ## Operation boundaries -/

/-- "Invariants that hold at every operation boundary in a well-formed configuration" (R31), with the configuration well-formed. -/
structure Boundary (s : State) : Prop where
  legal : s.cfg.wf = true
  column : s.cursorX.toNat < s.cfg.cols
  row : s.cursorY.toNat < s.cfg.rows
  idle : s.seq = .idle

/-! ## The Transport's answers -/

/-- How many writes a transport word makes when every one is answered ACK (40_transport.md R85 to R90); a host request is none. -/
def transportWrites : Instr → Nat
  | .tWrinit _ => 2
  | .tWrcmd _ | .tWrdata _ => 4
  | .tSetbl _ => 1
  | .tWait _ => 0
  | .init | .clear | .putchar _ | .moveto _ _ | .setbl _ | .setdisp _ | .setcursor _ | .setblink _ | .glyph _ _ => 0

/-- The next `n` writes are all answered ACK. -/
def AllAck (s : State) (n : Nat) : Prop :=
  ∀ j < n, s.upcoming j = .ack

/-- The next `n` writes are answered ACK and the one after them ERR. -/
def ErrAfter (s : State) (n : Nat) : Prop :=
  AllAck s n ∧ s.upcoming n = .err

/-- The event of an ACKed write to the block's device. -/
def ackWrite (s : State) (b : Byte) : Event :=
  .write (deviceAddr s.cfg) b .ack

/-- Whether an event is a write. -/
def Event.isWrite : Event → Bool
  | .write _ _ _ => true
  | .wait _ => false

/-- How many events are writes. -/
def writeCount (es : List Event) : Nat :=
  es.countP Event.isWrite

/-- `s` after the events `es` and nothing else: they are appended to the trace and each write has used up one answer. -/
def State.observed (s : State) (es : List Event) : State :=
  { s with
    trace := s.trace ++ es
    answers := s.answers.drop (writeCount es)
    draws := s.draws + writeCount es }

/-- The four events of one 8-bit value sent as two ACKed pulses, high nibble first (40_transport.md R86, R88). -/
def valueEvents (s : State) (v : Byte) (rs : Bool) : List Event :=
  [ackWrite s (pcf s.bl (highNibble v) rs true), ackWrite s (pcf s.bl (highNibble v) rs false),
   ackWrite s (pcf s.bl (lowNibble v) rs true), ackWrite s (pcf s.bl (lowNibble v) rs false)]

/-- The two events of one ACKed init nibble (40_transport.md R85). -/
def nibbleEvents (s : State) (n : Nibble) : List Event :=
  [ackWrite s (pcf s.bl n false true), ackWrite s (pcf s.bl n false false)]

/-- The events of an ACKed command that is not slow (40_transport.md R86, R87). -/
def commandEvents (s : State) (cmd : Byte) : List Event :=
  valueEvents s cmd false ++ [.wait (settleUs s.cfg)]

/-- The events of an ACKed command of value at most 3 (R86, R87). -/
def slowCommandEvents (s : State) (cmd : Byte) : List Event :=
  valueEvents s cmd false ++ [.wait 5000#20]

/-- The events of an ACKed data write (40_transport.md R88). -/
def dataEvents (s : State) (v : Byte) : List Event :=
  valueEvents s v true ++ [.wait (settleUs s.cfg)]

/-- The events up to and including the `n`-th write (counting from 0), that write answered ERR: "a TransportError at the `j`-th
`BusWrite` yields exactly the first `j` write events" (10_state.md R30). -/
def cutAtWrite : Nat → List Event → List Event
  | _, [] => []
  | n, .wait t :: es => .wait t :: cutAtWrite n es
  | 0, .write d b _ :: _ => [.write d b .err]
  | n + 1, .write d b a :: es => .write d b a :: cutAtWrite n es

/-- The state after a primitive whose last write was answered ERR: an operation in progress ends with TransportError
(40_transport.md R91); with none in progress only the trace shows it (log 7). -/
def State.primitiveFailed (s : State) : State :=
  match s.seq with
  | .idle => s
  | .busy _ _ => s.complete .transportError

/-! ## Framing -/

/-- Every write with E = 1 is followed at once by a write to the same device of the same byte but for E = 0
(40_transport.md R84, R94). -/
def framed : List Event → Bool
  | [] => true
  | .wait _ :: es => framed es
  | .write d b _ :: .write d' b' a' :: es =>
    if b.getLsbD 2 then d' == d && b' == b &&& 0xFB#8 && framed es else framed (.write d' b' a' :: es)
  | .write _ b _ :: es => !b.getLsbD 2 && framed es

/-! ## Time -/

/-- The sum of the waits after the last write: what the delay timer still holds back the next write for (R52,
60_exceptions.md R142). -/
def pendingWait : List Event → Nat
  | [] => 0
  | .wait t :: es => if es.all (fun e => !e.isWrite) then t.toNat + pendingWait es else pendingWait es
  | .write _ _ _ :: es => pendingWait es

/-- Whether the start and finish times (in µs) of a trace's writes keep every lower bound: a write starts no sooner than the waits
after the write before it allow (R52). `ready` is the earliest start of the next write. -/
def honours : Nat → List Event → List (Nat × Nat) → Prop
  | _, [], [] => True
  | _, [], _ :: _ => False
  | ready, .wait t :: es, times => honours (ready + t.toNat) es times
  | _, .write _ _ _ :: _, [] => False
  | ready, .write _ _ _ :: es, (start, finish) :: times => ready ≤ start ∧ start ≤ finish ∧ honours finish es times

end Sys2Proof.Machine
end

