-- ==== Sys2Proof/Certificates/Slice0/Obligations.lean ====
section
/-! DEFINITION. What is claimed of the model. Each statement's docstring names the rule it formalises. Where a rule rests on one of
the spec's own decisions (D1 to D34) or is marked by the spec as derived, the docstring says so. -/

open Sys2Proof Sys2Proof.Machine

/-! ## Reset, configuration, operation boundaries -/

/-- R34 (values: the spec's decision D15): every field after power-on reset, whatever the configuration; `State.reset` is that reset
with some configuration (which one is the model's choice, log 2, and not claimed here). R148: the configuration is kept and reset
produces no bus traffic. R149: the block then waits in IDLE for the first request; the last clause says so of a legal machine. That
both ports are empty at reset (log 5) and that waiting is a step which changes nothing (log 6) are the model's choices. -/
def Obligations.ResetLeavesSpecValues : Prop :=
  ∀ c : Configuration,
    (State.resetWith c).cursorX = 0 ∧ (State.resetWith c).cursorY = 0 ∧ (State.resetWith c).impliedNl = false
      ∧ (State.resetWith c).bl = true ∧ (State.resetWith c).d = false ∧ (State.resetWith c).c = false
      ∧ (State.resetWith c).b = false ∧ (State.resetWith c).seq = .idle ∧ (State.resetWith c).trace = []
      ∧ (State.resetWith c).cfg = c ∧ State.reset = State.resetWith State.reset.cfg
      ∧ (c.wf = true → step (State.resetWith c) = .next (State.resetWith c))

/-- R31's invariants hold after reset in every well-formed configuration (the spec derives this from R34), and at `State.reset`, whose
configuration is the model's choice (log 2). -/
def Obligations.ResetMeetsBoundary : Prop :=
  (∀ c : Configuration, c.wf = true → Boundary (State.resetWith c)) ∧ Boundary State.reset

/-- R31 (derived in the spec): every step from an operation boundary ends at an operation boundary, on every path and for every
answer of the Transport. -/
def Obligations.StepKeepsBoundary : Prop :=
  ∀ s t : State, Boundary s → step s = .next t → Boundary t

/-- R153 (decision D31): "The block takes every request in every state": at a boundary, whatever words the Host presents, the next
step is a next state. Where the words hold no whole request (an empty port, a GLYPH word without its payload) that next state is the
waiting step, which is the model's choice (log 6). -/
def Obligations.BoundaryNeverStops : Prop :=
  ∀ s : State, Boundary s → s.adapterPort = none → ∃ t, step s = .next t

/-- 00_scope.md section 3: the configuration is "fixed when the block is constructed"; no step changes it. -/
def Obligations.StepKeepsConfiguration : Prop :=
  ∀ s t : State, step s = .next t → t.cfg = s.cfg

/-- R16 (decision D6): a configuration that breaks any one of the eight named checks is refused. -/
def Obligations.IllegalConfigurationRefused : Prop :=
  ∀ s : State,
    (¬ (s.cfg.rows = 1 ∨ s.cfg.rows = 2 ∨ s.cfg.rows = 4)
      ∨ ¬ (1 ≤ s.cfg.cols ∧ s.cfg.cols ≤ if s.cfg.rows = 4 then 20 else 40)
      ∨ ¬ (0x20 ≤ s.cfg.devAddr ∧ s.cfg.devAddr ≤ 0x27)
      ∨ (∃ k v, (k, v) ∈ s.cfg.charmapOverrides ∧ ¬ (0x80 ≤ k ∧ k ≤ 0x10FFFF))
      ∨ (∃ k v, (k, v) ∈ s.cfg.charmapOverrides ∧ ¬ v ≤ 0xFF)
      ∨ (∃ y < s.cfg.rows, ¬ (s.cfg.rowBase.at y).toNat + s.cfg.cols - 1 ≤ 0x7F)
      ∨ (∃ y < s.cfg.rows, ∃ z < s.cfg.rows, y ≠ z ∧ ∃ a b, a < s.cfg.cols ∧ b < s.cfg.cols
          ∧ (s.cfg.rowBase.at y).toNat + a = (s.cfg.rowBase.at z).toNat + b)
      ∨ ¬ s.cfg.tSettleUs < 2 ^ 20)
    → step s = .refused .illegalConfiguration

/-- R12 (decision D7): with the default row table, every geometry, device address and settle time that R8 to R13 allow passes every
check of R16. -/
def Obligations.DefaultConfigurationsLegal : Prop :=
  ∀ rows cols dev ts : Nat, (rows = 1 ∨ rows = 2 ∨ rows = 4) → 1 ≤ cols → cols ≤ (if rows = 4 then 20 else 40) →
    0x20 ≤ dev → dev ≤ 0x27 → ts < 2 ^ 20 → (Config.ofGeometry rows cols dev ts).wf = true

/-! ## Decoding and stepping -/

/-- Words written out from R60 to R68 and R72 (Part 3 of the test vectors) decode to the instructions they stand for. -/
def Obligations.SampleWordsDecode : Prop :=
  decode (.request [0x01000000]) = .ok .init
    ∧ decode (.request [0x02000000]) = .ok .clear
    ∧ decode (.request [0x03000048]) = .ok (.putchar 0x48)
    ∧ decode (.request [0x04000D00]) = .ok (.moveto 13 0)
    ∧ decode (.request [0x05000001]) = .ok (.setbl true)
    ∧ decode (.request [0x07000001]) = .ok (.setcursor true)
    ∧ decode (.request [0x09000003, 0x1F1F0A00, 0x0000040E])
        = .ok (.glyph 3 #v[0x00, 0x0A, 0x1F, 0x1F, 0x0E, 0x04, 0x00, 0x00])
    ∧ decode (.transport 0x000003) = .ok (.tWrinit 3)
    ∧ decode (.transport 0x100028) = .ok (.tWrcmd 0x28)
    ∧ decode (.transport 0x404E20) = .ok (.tWait 20000)

/-- The words of every instruction decode to it, every operand at every value (R60 to R68, R72). -/
def Obligations.DecodeOfEncode : Prop :=
  ∀ i : Instr, decode (encode i) = .ok i

/-- Each word has one meaning: what decodes is the encoding of what it decodes to (R58 to R72). -/
def Obligations.EncodeOfDecode : Prop :=
  (∀ (r : RawRequest) (i : Instr), decodeRequest r = .ok i →
      encode i = .request (if requestLength r.h = 3 then [r.h, r.p0, r.p1] else [r.h]))
    ∧ (∀ (t : TransportWord) (i : Instr), decodeTransport t = .ok i → encode i = .transport t)

/-- R71 (decision D4): "a request is legal when `(H & mask) = match` for its row"; rows do not overlap, so "its row" is one row. -/
def Obligations.LegalWhenMaskMatches : Prop :=
  (∀ r : RawRequest, (∃ i, decodeRequest r = .ok i) ↔ ∃ row ∈ hostRows, row.covers r.h = true)
    ∧ (∀ t : TransportWord, (∃ i, decodeTransport t = .ok i) ↔ ∃ row ∈ transportRows, row.covers t = true)
    ∧ (∀ (h : RequestWord) (p q : OpcodeRow), p ∈ hostRows → q ∈ hostRows → p.covers h = true → q.covers h = true → p = q)
    ∧ (∀ (t : TransportWord) (p q : OpcodeRow), p ∈ transportRows → q ∈ transportRows → p.covers t = true →
        q.covers t = true → p = q)

/-- R70, R71, R134 (decision D4): a request whose word fits no row of the opcode table completes with InvalidOperation; no other
field changes but the words taken. -/
def Obligations.UndecodableRequestIsInvalidOperation : Prop :=
  ∀ (s : State) (r : RawRequest) (after : List RequestWord),
    s.cfg.wf = true → s.adapterPort = none → s.seq = .idle → takeRequest s.hostPort = some (r, after) →
    (∀ row ∈ hostRows, row.covers r.h = false) →
    step s = .next { s with hostPort := after, responses := s.responses ++ [.invalidOperation] }

/-- R69 (decision D3): the length depends on `OPC` alone; the words of a request are consumed whatever it then does, the payload of
GLYPH included. -/
def Obligations.RequestWordsAreConsumedByLength : Prop :=
  ∀ (s : State), s.cfg.wf = true → s.adapterPort = none → s.seq = .idle →
    (∀ (h p0 p1 : RequestWord) (after : List RequestWord), h.extractLsb' 24 8 = 0x09#8 →
        s.hostPort = h :: p0 :: p1 :: after → ∃ t, step s = .next t ∧ t.hostPort = after)
    ∧ (∀ (h : RequestWord) (after : List RequestWord), h.extractLsb' 24 8 ≠ 0x09#8 →
        s.hostPort = h :: after → ∃ t, step s = .next t ∧ t.hostPort = after)

/-- The model's choice (log 6, R149): with no whole request on the host port the block waits in IDLE. -/
def Obligations.IdleWaitsForAWholeRequest : Prop :=
  ∀ s : State, s.cfg.wf = true → s.adapterPort = none → s.seq = .idle → takeRequest s.hostPort = none → step s = .next s

/-- A step at IDLE runs the decoded request: the words at the head of the host port that decode to `i` are taken, and the step is
`exec i` (R58, R69). -/
def Obligations.StepRunsHostRequest : Prop :=
  ∀ (s : State) (words after : List RequestWord) (i : Instr),
    s.cfg.wf = true → s.adapterPort = none → s.seq = .idle → s.hostPort = words ++ after →
    decode (.request words) = .ok i → step s = exec i (s.withHostPort after)

/-- A step with a word on the transport port runs the decoded transport word (R72, R83). By R83 the Session issues one only inside an
operation; that the word also runs at `SEQ = IDLE` is the model's choice (log 7). -/
def Obligations.StepRunsTransportWord : Prop :=
  ∀ (s : State) (t : TransportWord) (i : Instr),
    s.cfg.wf = true → s.adapterPort = some t → decode (.transport t) = .ok i → step s = exec i (s.withAdapterPort none)

/-- R96, U4 (log 8): a word on the transport port that fits no row is no transport word, and the model has no meaning for it. -/
def Obligations.ReservedTransportWordRefused : Prop :=
  ∀ (s : State) (t : TransportWord), s.cfg.wf = true → s.adapterPort = some t →
    (∀ row ∈ transportRows, row.covers t = false) → step s = .refused .reservedTransportWord

/-- R154, U19 (decision D23): while an operation is in progress the port accepts nothing: no host request runs, and no step takes a
word from the host port. -/
def Obligations.BusyPortAcceptsNothing : Prop :=
  (∀ (i : Instr) (s : State) (op : Instr) (k : List Act), isHostRequest i = true → s.seq = .busy op k →
      exec i s = .refused .portNotAccepting)
    ∧ (∀ (s t : State) (op : Instr) (k : List Act), s.seq = .busy op k → step s = .next t → t.hostPort = s.hostPort)

/-- R30 (log 3): running an operation in progress one step at a time, with the Adapter taking each transport word from its port, ends
in the state that running it whole gives, with `SEQ` back at IDLE. -/
def Obligations.StepByStepMatchesWholeOperation : Prop :=
  ∀ (s : State) (op : Instr) (k : List Act), s.cfg.wf = true → s.adapterPort = none → s.seq = .busy op k →
    (∃ n ≤ 2 * k.length + 1, Sys2Proof.core.run n s = .next (finish s)) ∧ (finish s).seq = .idle

/-! ## The Adapter -/

/-- R73, R74: the bus byte, field by field, and the E = 1 byte as the E = 0 byte with bit 2 set. -/
def Obligations.BusByteLayout : Prop :=
  ∀ (bl : Bool) (n : Nibble) (rs e : Bool),
    (pcf bl n rs e).extractLsb' 4 4 = n ∧ (pcf bl n rs e).getLsbD 3 = bl ∧ (pcf bl n rs e).getLsbD 2 = e
      ∧ (pcf bl n rs e).getLsbD 1 = false ∧ (pcf bl n rs e).getLsbD 0 = rs
      ∧ pcf bl n rs true = pcf bl n rs false ||| 0x04#8

/-- R85 (BL in the byte: decision D10): T.WRINIT sends one enable pulse with RS = 0 and no wait; a failed write ends it there (R91).
With no operation in progress a failed write delivers no status, which is the model's choice (log 7). -/
def Obligations.WriteInitNibbleSendsOnePulse : Prop :=
  ∀ (n : Nibble) (s : State),
    encode (.tWrinit n) = .transport (0x0#4 ++ 0#16 ++ n : BitVec 24)
    ∧ (AllAck s 2 → exec (.tWrinit n) s = .next (s.observed (nibbleEvents s n)))
    ∧ (∀ j < 2, ErrAfter s j →
        exec (.tWrinit n) s = .next (s.observed (cutAtWrite j (nibbleEvents s n))).primitiveFailed)

/-- R86, R87 (the wait's place: decision D13): T.WRCMD sends two pulses with RS = 0, high nibble first, then waits 5000 for a value
at most 3 and `T_SETTLE_US` otherwise; a failed write ends it there (R91) and the wait is skipped. With no operation in progress a
failed write delivers no status, which is the model's choice (log 7). -/
def Obligations.WriteCommandSendsTwoPulsesThenWaits : Prop :=
  ∀ (c : Byte) (s : State),
    encode (.tWrcmd c) = .transport (0x1#4 ++ 0#12 ++ c : BitVec 24)
    ∧ (AllAck s 4 → exec (.tWrcmd c) s
        = .next (s.observed (valueEvents s c false
            ++ [.wait (if c.toNat ≤ 3 then 5000#20 else BitVec.ofNat 20 s.cfg.tSettleUs)])))
    ∧ (∀ j < 4, ErrAfter s j →
        exec (.tWrcmd c) s = .next (s.observed (cutAtWrite j (valueEvents s c false))).primitiveFailed)

/-- R88 (decisions D13, D14): T.WRDATA sends two pulses with RS = 1, high nibble first, then waits `T_SETTLE_US`, for every value; a
failed write ends it there (R91). With no operation in progress a failed write delivers no status, which is the model's choice
(log 7). -/
def Obligations.WriteDataSendsTwoPulsesThenSettles : Prop :=
  ∀ (d : Byte) (s : State),
    encode (.tWrdata d) = .transport (0x2#4 ++ 0#12 ++ d : BitVec 24)
    ∧ (AllAck s 4 → exec (.tWrdata d) s
        = .next (s.observed (valueEvents s d true ++ [.wait (BitVec.ofNat 20 s.cfg.tSettleUs)])))
    ∧ (∀ j < 4, ErrAfter s j →
        exec (.tWrdata d) s = .next (s.observed (cutAtWrite j (valueEvents s d true))).primitiveFailed)

/-- R89: T.SETBL writes `FLAGS.BL`, then sends the one byte `v << 3`; the flag "stays written even if the write fails" (R91). With no
operation in progress a failed write delivers no status, which is the model's choice (log 7). -/
def Obligations.SetBacklightWritesFlagThenByte : Prop :=
  ∀ (v : Bool) (s : State),
    encode (.tSetbl v) = .transport (0x3#4 ++ 0#19 ++ BitVec.ofBool v : BitVec 24)
    ∧ (s.upcoming 0 = .ack → exec (.tSetbl v) s
        = .next ((s.writeBl v).observed [.write (deviceAddr s.cfg) (if v then 0x08 else 0x00) .ack]))
    ∧ (s.upcoming 0 = .err → exec (.tSetbl v) s
        = .next ((s.writeBl v).observed [.write (deviceAddr s.cfg) (if v then 0x08 else 0x00) .err]).primitiveFailed)

/-- R90: T.WAIT emits `T(t)` and does nothing else, in every state. -/
def Obligations.WaitEmitsOneEvent : Prop :=
  ∀ (t : Micros) (s : State),
    encode (.tWait t) = .transport (0x4#4 ++ t : BitVec 24)
    ∧ exec (.tWait t) s = .next { s with trace := s.trace ++ [.wait t] }

/-- R37, R92, R93 (R92 and R93 derived in the spec): every byte an instruction sends goes to `DEV_ADDR`, carries `FLAGS.BL` as the
instruction leaves it in bit 3, and has RW = 0; what was on the trace stays. -/
def Obligations.EveryByteCarriesBacklight : Prop :=
  ∀ (i : Instr) (s t : State), exec i s = .next t →
    ∃ es, t.trace = s.trace ++ es ∧ ∀ d b a, Event.write d b a ∈ es →
      d = BitVec.ofNat 7 s.cfg.devAddr ∧ b.getLsbD 3 = t.bl ∧ b.getLsbD 1 = false

/-- R93 (derived in the spec): RS is 1 in the bytes of T.WRDATA and 0 in those of every other transport word. -/
def Obligations.RegisterSelectMarksDataWrites : Prop :=
  ∀ (i : Instr) (s t : State), isHostRequest i = false → exec i s = .next t →
    ∃ es, t.trace = s.trace ++ es ∧ ∀ d b a, Event.write d b a ∈ es → (b.getLsbD 0 = true ↔ ∃ v, i = .tWrdata v)

/-- R84, R94, R117: with every write ACKed, an instruction's events are whole enable pulses (E = 1, then the same byte with E = 0, at
the same device, nothing between them), bytes with E = 0, and waits. -/
def Obligations.AckedEventsAreFramed : Prop :=
  ∀ (i : Instr) (s t : State), AllAck s 40 → exec i s = .next t → ∃ es, t.trace = s.trace ++ es ∧ framed es = true

/-- Frame of the transport words (R83): every field but FLAGS.BL in T.SETBL, and the events, is as before. `SEQ` and the statuses are as
before when every write is ACKed; a write answered ERR ends the operation in progress with TransportError (R91). With no operation in
progress they are as before whatever the Transport answers, which is the model's choice (log 7). -/
def Obligations.TransportWordFrame : Prop :=
  ∀ (i : Instr) (s t : State), isHostRequest i = false → exec i s = .next t →
    t.cfg = s.cfg ∧ t.cursorX = s.cursorX ∧ t.cursorY = s.cursorY ∧ t.impliedNl = s.impliedNl
      ∧ t.d = s.d ∧ t.c = s.c ∧ t.b = s.b ∧ ((∀ v, i ≠ .tSetbl v) → t.bl = s.bl) ∧ (∀ v, i = .tSetbl v → t.bl = v)
      ∧ t.hostPort = s.hostPort ∧ t.adapterPort = s.adapterPort
      ∧ (AllAck s (transportWrites i) ∨ s.seq = .idle → t.seq = s.seq ∧ t.responses = s.responses)
      ∧ (∀ j < transportWrites i, ErrAfter s j → s.seq ≠ .idle →
          t.seq = .idle ∧ t.responses = s.responses ++ [.transportError])

/-! ## The Session -/

/-- R99 (decisions D8 to D12): INIT's whole trace and its state writes, for every configuration and every start state at IDLE, and
where each stands when a write fails: D is set from the first display-control write on, the cursor and `IMPLIED_NL` are kept. -/
def Obligations.InitRunsPowerOnSequence : Prop :=
  ∀ s : State, s.seq = .idle →
    let n := if s.cfg.initSwitchNibble then 25 else 23
    let es := [ackWrite s (if s.bl then 0x08 else 0x00), .wait 20000#20]
      ++ nibbleEvents s 0x3 ++ [.wait 5000#20] ++ nibbleEvents s 0x3 ++ [.wait 1000#20]
      ++ nibbleEvents s 0x3 ++ [.wait 1000#20]
      ++ (if s.cfg.initSwitchNibble then nibbleEvents s 0x2 ++ [.wait 1000#20] else [])
      ++ commandEvents s (if s.cfg.rows > 1 then 0x28 else 0x20) ++ commandEvents s 0x06
      ++ commandEvents s (BitVec.ofNat 8 (0x0C + 2 * s.c.toNat + s.b.toNat)) ++ slowCommandEvents s 0x01
    encode .init = .request [0x01000000]
    ∧ (AllAck s n → exec .init s
        = .next ((((((s.writeD true).withCursorX 0).withCursorY 0).withImpliedNl false).observed es).complete .ok))
    ∧ (∀ j < n, ErrAfter s j → exec .init s
        = .next (((if j < n - 8 then s else s.writeD true).observed (cutAtWrite j es)).complete .transportError))

/-- R100: CLEAR sends command 0x01, then homes the cursor and clears `IMPLIED_NL`; on a failed write they are as they were. -/
def Obligations.ClearHomesCursor : Prop :=
  ∀ s : State, s.seq = .idle →
    encode .clear = .request [0x02000000]
    ∧ (AllAck s 4 → exec .clear s
        = .next ((((s.withCursorX 0).withCursorY 0).withImpliedNl false).observed (slowCommandEvents s 0x01)
            |>.complete .ok))
    ∧ (∀ j < 4, ErrAfter s j → exec .clear s
        = .next ((s.observed (cutAtWrite j (slowCommandEvents s 0x01))).complete .transportError))

/-- R101, R131 (decision D27): MOVETO outside the geometry is InvalidPosition and nothing else; inside it the cursor is written, then
one set-DDRAM command is sent, and a failed write leaves the cursor "ahead". -/
def Obligations.MovetoMovesThenCommands : Prop :=
  ∀ (col row : BitVec 8) (s : State), s.seq = .idle →
    let moved := (s.withCursorX col).withCursorY (BitVec.ofNat 2 row.toNat)
    let es := commandEvents s (setDdram (ddramAddr s.cfg col.toNat row.toNat))
    encode (.moveto col row) = .request [(0x04#8 ++ 0x00#8 ++ col ++ row : BitVec 32)]
    ∧ (s.cfg.cols ≤ col.toNat ∨ s.cfg.rows ≤ row.toNat →
        exec (.moveto col row) s = .next { s with responses := s.responses ++ [.invalidPosition] })
    ∧ (col.toNat < s.cfg.cols → row.toNat < s.cfg.rows →
        (AllAck s 4 → exec (.moveto col row) s = .next ((moved.observed es).complete .ok))
        ∧ (∀ j < 4, ErrAfter s j →
            exec (.moveto col row) s = .next ((moved.observed (cutAtWrite j es)).complete .transportError)))

/-- R102, R104, R133 (decision D19 for the map): PUTCHAR of a character with no glyph code is InvalidCharacter and nothing else; one
with glyph code `g` is a data write, the advance with its wrap, and one set-DDRAM command for the new cursor. A failed data write
leaves the cursor as it was; a failed command leaves it at its new place. -/
def Obligations.PutcharWritesAndAdvances : Prop :=
  ∀ (cp : Codepoint) (s : State), s.seq = .idle → cp ≠ 0x0A →
    let x := s.cursorX.toNat + 1
    let wraps := decide (s.cfg.cols ≤ x)
    let x' := if wraps then 0 else x
    let y₁ := if wraps then s.cursorY.toNat + 1 else s.cursorY.toNat
    let y' := if s.cfg.rows ≤ y₁ then 0 else y₁
    let moved := ((s.withCursorX (BitVec.ofNat 8 x')).withCursorY (BitVec.ofNat 2 y')).withImpliedNl (wraps || s.impliedNl)
    encode (.putchar cp) = .request [(0x03#8 ++ 0b000#3 ++ cp : BitVec 32)]
    ∧ (charMap s.cfg cp = none →
        exec (.putchar cp) s = .next { s with responses := s.responses ++ [.invalidCharacter] })
    ∧ ∀ g, charMap s.cfg cp = some g →
        let es := dataEvents s g ++ commandEvents s (setDdram (ddramAddr s.cfg x' y'))
        (AllAck s 8 → exec (.putchar cp) s = .next ((moved.observed es).complete .ok))
        ∧ (∀ j < 8, ErrAfter s j → exec (.putchar cp) s
            = .next (((if j < 4 then s else moved).observed (cutAtWrite j es)).complete .transportError))

/-- R102, R104: PUTCHAR of a line-feed with `IMPLIED_NL = 0` goes to column 0 of the next row (row 0 after the last), leaves
`IMPLIED_NL` at 0 and sends one set-DDRAM command; a failed write leaves the cursor at its new place. -/
def Obligations.LineFeedMovesToNextRow : Prop :=
  ∀ s : State, s.seq = .idle → s.impliedNl = false →
    let y' := if s.cfg.rows ≤ s.cursorY.toNat + 1 then 0 else s.cursorY.toNat + 1
    let moved := (s.withCursorX 0).withCursorY (BitVec.ofNat 2 y')
    let es := commandEvents s (setDdram (ddramAddr s.cfg 0 y'))
    (AllAck s 4 → exec (.putchar 0x0A) s = .next ((moved.observed es).complete .ok))
    ∧ (∀ j < 4, ErrAfter s j →
        exec (.putchar 0x0A) s = .next ((moved.observed (cutAtWrite j es)).complete .transportError))

/-- R103 (decisions D16, D17): a line-feed with `IMPLIED_NL = 1` clears the flag and does nothing else, whatever the Transport. -/
def Obligations.SuppressedLineFeedOnlyClearsFlag : Prop :=
  ∀ s : State, s.seq = .idle → s.impliedNl = true →
    exec (.putchar 0x0A) s = .next { s with impliedNl := false, responses := s.responses ++ [.ok] }

/-- R107: SETBL writes `FLAGS.BL`, even when the write then fails, and sends the one byte `v << 3`. -/
def Obligations.SetblWritesBacklight : Prop :=
  ∀ (v : Bool) (s : State), s.seq = .idle →
    encode (.setbl v) = .request [(0x05#8 ++ 0#23 ++ BitVec.ofBool v : BitVec 32)]
    ∧ (AllAck s 1 → exec (.setbl v) s
        = .next (((s.writeBl v).observed [ackWrite s (if v then 0x08 else 0x00)]).complete .ok))
    ∧ (s.upcoming 0 = .err → exec (.setbl v) s
        = .next (((s.writeBl v).observed [.write (deviceAddr s.cfg) (if v then 0x08 else 0x00) .err]).complete
            .transportError))

/-- R108 (and R98, R76): SETDISP writes `FLAGS.D`, then sends the display-control command `0x08 | v<<2 | C<<1 | B`. -/
def Obligations.SetdispWritesDisplayFlag : Prop :=
  ∀ (v : Bool) (s : State), s.seq = .idle →
    let es := commandEvents s (BitVec.ofNat 8 (0x08 + 4 * v.toNat + 2 * s.c.toNat + s.b.toNat))
    encode (.setdisp v) = .request [(0x06#8 ++ 0#23 ++ BitVec.ofBool v : BitVec 32)]
    ∧ (AllAck s 4 → exec (.setdisp v) s = .next (((s.writeD v).observed es).complete .ok))
    ∧ (∀ j < 4, ErrAfter s j →
        exec (.setdisp v) s = .next (((s.writeD v).observed (cutAtWrite j es)).complete .transportError))

/-- R109: SETCURSOR writes `FLAGS.C`, then sends the display-control command. -/
def Obligations.SetcursorWritesCursorFlag : Prop :=
  ∀ (v : Bool) (s : State), s.seq = .idle →
    let es := commandEvents s (BitVec.ofNat 8 (0x08 + 4 * s.d.toNat + 2 * v.toNat + s.b.toNat))
    encode (.setcursor v) = .request [(0x07#8 ++ 0#23 ++ BitVec.ofBool v : BitVec 32)]
    ∧ (AllAck s 4 → exec (.setcursor v) s = .next (((s.writeC v).observed es).complete .ok))
    ∧ (∀ j < 4, ErrAfter s j →
        exec (.setcursor v) s = .next (((s.writeC v).observed (cutAtWrite j es)).complete .transportError))

/-- R110: SETBLINK writes `FLAGS.B`, then sends the display-control command. -/
def Obligations.SetblinkWritesBlinkFlag : Prop :=
  ∀ (v : Bool) (s : State), s.seq = .idle →
    let es := commandEvents s (BitVec.ofNat 8 (0x08 + 4 * s.d.toNat + 2 * s.c.toNat + v.toNat))
    encode (.setblink v) = .request [(0x08#8 ++ 0#23 ++ BitVec.ofBool v : BitVec 32)]
    ∧ (AllAck s 4 → exec (.setblink v) s = .next (((s.writeB v).observed es).complete .ok))
    ∧ (∀ j < 4, ErrAfter s j →
        exec (.setblink v) s = .next (((s.writeB v).observed (cutAtWrite j es)).complete .transportError))

/-- R111, R132 (decisions D20, D21): GLYPH with a slot above 7 is InvalidGlyphSlot and nothing else; with a slot 0 to 7 it sends the
slot's CGRAM address, the eight bytes as given in index order, and the set-DDRAM command of the cursor; it writes no state. -/
def Obligations.GlyphUploadsThenRestoresAddress : Prop :=
  ∀ (slot : BitVec 8) (p : Vector Byte 8) (s : State), s.seq = .idle →
    let es := commandEvents s (BitVec.ofNat 8 (0x40 + 8 * slot.toNat))
      ++ dataEvents s p[0] ++ dataEvents s p[1] ++ dataEvents s p[2] ++ dataEvents s p[3]
      ++ dataEvents s p[4] ++ dataEvents s p[5] ++ dataEvents s p[6] ++ dataEvents s p[7]
      ++ commandEvents s (setDdram (ddramAddr s.cfg s.cursorX.toNat s.cursorY.toNat))
    encode (.glyph slot p) = .request
        [(0x09#8 ++ 0x0000#16 ++ slot : BitVec 32), (p[3] ++ p[2] ++ p[1] ++ p[0] : BitVec 32),
         (p[7] ++ p[6] ++ p[5] ++ p[4] : BitVec 32)]
    ∧ (7 < slot.toNat → exec (.glyph slot p) s = .next { s with responses := s.responses ++ [.invalidGlyphSlot] })
    ∧ (slot.toNat ≤ 7 →
        (AllAck s 40 → exec (.glyph slot p) s = .next ((s.observed es).complete .ok))
        ∧ (∀ j < 40, ErrAfter s j →
            exec (.glyph slot p) s = .next ((s.observed (cutAtWrite j es)).complete .transportError)))

/-! ## Whole-machine rules -/

/-- R35 (derived in the spec), R28, R29, R105: which fields a host request may change; every other field is as before, whatever the
Transport answers. -/
def Obligations.HostRequestFrame : Prop :=
  ∀ (i : Instr) (s t : State), isHostRequest i = true → exec i s = .next t →
    t.cfg = s.cfg ∧ t.hostPort = s.hostPort ∧ t.adapterPort = s.adapterPort ∧ t.seq = .idle
      ∧ (i ≠ .init → i ≠ .clear → (∀ col row, i ≠ .moveto col row) → (∀ cp, i ≠ .putchar cp) →
          t.cursorX = s.cursorX ∧ t.cursorY = s.cursorY)
      ∧ (i ≠ .init → i ≠ .clear → (∀ cp, i ≠ .putchar cp) → t.impliedNl = s.impliedNl)
      ∧ ((∀ v, i ≠ .setbl v) → t.bl = s.bl)
      ∧ (i ≠ .init → (∀ v, i ≠ .setdisp v) → t.d = s.d)
      ∧ ((∀ v, i ≠ .setcursor v) → t.c = s.c)
      ∧ ((∀ v, i ≠ .setblink v) → t.b = s.b)

/-- R129, R135 (R135 derived in the spec): every accepted request ends with exactly one status, and only with one its row of the
table allows; a suppressed line-feed cannot meet a TransportError. -/
def Obligations.RequestEndsWithOneAllowedStatus : Prop :=
  ∀ (i : Instr) (s t : State), isHostRequest i = true → exec i s = .next t →
    ∃ st, t.responses = s.responses ++ [st]
      ∧ (st = .ok ∨ (st = .transportError ∧ ¬ (i = .putchar 0x0A ∧ s.impliedNl = true))
        ∨ (st = .invalidPosition ∧ ∃ col row, i = .moveto col row)
        ∨ (st = .invalidGlyphSlot ∧ ∃ slot p, i = .glyph slot p)
        ∨ (st = .invalidCharacter ∧ ∃ cp, i = .putchar cp))

/-- R136 (derived in the spec for InvalidCharacter): a request that ends with a validation error leaves everything but the status as
it was. -/
def Obligations.ValidationErrorsHaveNoEffect : Prop :=
  ∀ (i : Instr) (s t : State) (st : Status), isHostRequest i = true → exec i s = .next t →
    t.responses = s.responses ++ [st] → st ≠ .ok → st ≠ .transportError →
    t = { s with responses := s.responses ++ [st] }

/-- R18, R30, R91, R130 (decision D18): let `es` be the events of a request when every write is ACKed. When the first write answered
ERR is the `j`-th, the request's events are `es` cut at that write, its status is TransportError, and the block is back at IDLE. -/
def Obligations.ErrCutsOperationAtThatWrite : Prop :=
  ∀ (i : Instr) (s t : State) (es : List Event) (j : Nat),
    isHostRequest i = true → exec i { s with answers := List.replicate 40 .ack } = .next t → t.trace = s.trace ++ es →
    ErrAfter s j → j < writeCount es →
    ∃ u, exec i s = .next u ∧ u.trace = s.trace ++ cutAtWrite j es ∧ u.responses = s.responses ++ [.transportError]
      ∧ u.seq = .idle

/-- R112 (derived in the spec): issuing a flag operation twice with the same operand leaves the state fields of R21 as issuing it
once, and sends the same bytes again. -/
def Obligations.FlagOperationsAreIdempotent : Prop :=
  ∀ (i : Instr) (s t u : State), ((∃ v, i = .setbl v) ∨ (∃ v, i = .setdisp v) ∨ (∃ v, i = .setcursor v) ∨ ∃ v, i = .setblink v) →
    AllAck s 8 → exec i s = .next t → exec i t = .next u →
    u.flags = t.flags ∧ u.cursorX = t.cursorX ∧ u.cursorY = t.cursorY ∧ u.impliedNl = t.impliedNl ∧ u.seq = t.seq
      ∧ ∃ es, t.trace = s.trace ++ es ∧ u.trace = t.trace ++ es

/-- R92 (derived in the spec), R153: in a legal configuration at IDLE, any sequence of host requests runs to its end whatever their
statuses, one status each; with the backlight on at its start and no SETBL 0 in it, the backlight is on at its end and every byte sent
has bit 3 = 1. -/
def Obligations.BacklightPersistsOverRequests : Prop :=
  ∀ (is : List Instr) (s : State), s.cfg.wf = true → s.seq = .idle → s.bl = true →
    (∀ i ∈ is, isHostRequest i = true ∧ i ≠ .setbl false) →
    ∃ sts t es, hostRequests is s = some (sts, t) ∧ sts.length = is.length ∧ t.bl = true ∧ t.trace = s.trace ++ es
      ∧ ∀ d b a, Event.write d b a ∈ es → b.getLsbD 3 = true

/-- R106 (decision D2): PUTSTR ends OK with every character done, or with the first non-OK status at character `n`: the `n` before
it ended OK, and no later one was sent. -/
def Obligations.PutStringStopsAtFirstError : Prop :=
  ∀ (cps : List Codepoint) (s t : State) (st : Status) (n : Nat), putString cps s = some ((st, n), t) →
    (st = .ok → n = cps.length)
    ∧ (st ≠ .ok → ∃ u cp, putString (cps.take n) s = some ((.ok, n), u) ∧ cps[n]? = some cp
        ∧ hostRequest (.putchar cp) u = some (st, t))

/-- R113 (derived in the spec): the cursor arithmetic of PUTSTR for mapped characters without a line-feed, every write ACKed: four
data bytes and four command bytes a character, and the end position and `IMPLIED_NL`. -/
def Obligations.PutStringCursorArithmetic : Prop :=
  ∀ (cps : List Codepoint) (s : State), Boundary s → (∀ cp ∈ cps, cp ≠ 0x0A ∧ charMap s.cfg cp ≠ none) →
    AllAck s (8 * cps.length) →
    ∃ t es, putString cps s = some ((.ok, cps.length), t)
      ∧ t.cursorX.toNat = (s.cursorX.toNat + cps.length) % s.cfg.cols
      ∧ t.cursorY.toNat = (s.cursorY.toNat + (s.cursorX.toNat + cps.length) / s.cfg.cols) % s.cfg.rows
      ∧ t.impliedNl = (s.impliedNl || decide (s.cfg.cols ≤ s.cursorX.toNat + cps.length))
      ∧ t.trace = s.trace ++ es
      ∧ es.countP (fun e => match e with | .write _ b _ => b.getLsbD 0 | .wait _ => false) = 4 * cps.length
      ∧ es.countP (fun e => match e with | .write _ b _ => !b.getLsbD 0 | .wait _ => false) = 4 * cps.length

/-- R115 (derived in the spec): from column 0, `COLS` characters and then a line-feed give the same trace and cursor as the
characters alone, and `IMPLIED_NL` 0 instead of 1. -/
def Obligations.WrapThenFeedIsWrapAlone : Prop :=
  ∀ (cps : List Codepoint) (s : State), Boundary s → s.cursorX = 0 → cps.length = s.cfg.cols →
    (∀ cp ∈ cps, cp ≠ 0x0A ∧ charMap s.cfg cp ≠ none) → AllAck s (8 * cps.length) →
    ∃ t u, putString cps s = some ((.ok, cps.length), t) ∧ putString (cps ++ [0x0A]) s = some ((.ok, cps.length + 1), u)
      ∧ u.trace = t.trace ∧ u.cursorX = 0 ∧ t.cursorX = 0 ∧ u.cursorY = t.cursorY
      ∧ t.cursorY.toNat = (s.cursorY.toNat + 1) % s.cfg.rows ∧ t.impliedNl = true ∧ u.impliedNl = false

/-- R116 (derived in the spec): GLYPH 3 and then PUTCHAR 3, every write ACKed: the set-DDRAM command of the cursor comes after the
eight pattern bytes and before the data write of glyph code 3. -/
def Obligations.GlyphThenPrintRestoresAddressFirst : Prop :=
  ∀ (p : Vector Byte 8) (s t u : State), Boundary s → AllAck s 48 →
    exec (.glyph 3 p) s = .next t → exec (.putchar 3) t = .next u →
    ∃ es fs, u.trace = s.trace ++ es ++ commandEvents s (setDdram (ddramAddr s.cfg s.cursorX.toNat s.cursorY.toNat))
        ++ dataEvents s 0x03 ++ fs
      ∧ es = commandEvents s 0x58 ++ p.toList.flatMap (dataEvents s)
      ∧ fs = commandEvents s (setDdram (ddramAddr s.cfg u.cursorX.toNat u.cursorY.toNat))

/-- R148, R150 (decisions D15, D22): at IDLE, CONSTRUCT of a legal configuration binds it, resets, then runs INIT: with INIT's writes
ACKed it ends OK in the reset state with `FLAGS.D` at 1 and exactly INIT's events (R99, with BL = 1 and C = B = 0), and when a write is
answered ERR it ends TransportError with those events cut at that write. That the words on the host port and the answers to come are
kept over the reset is the model's choice (log 23). R16, R155, U7, U21: from BUSY, or with a configuration that fails a check, there is
no reset and so no CONSTRUCT, which the model answers with none (log 19). -/
def Obligations.ConstructResetsThenInits : Prop :=
  ∀ (c : Configuration) (s : State),
    let n := if c.initSwitchNibble then 25 else 23
    let r := { State.resetWith c with hostPort := s.hostPort, answers := s.answers, draws := s.draws }
    let es := [ackWrite r 0x08, .wait 20000#20]
      ++ nibbleEvents r 0x3 ++ [.wait 5000#20] ++ nibbleEvents r 0x3 ++ [.wait 1000#20]
      ++ nibbleEvents r 0x3 ++ [.wait 1000#20]
      ++ (if c.initSwitchNibble then nibbleEvents r 0x2 ++ [.wait 1000#20] else [])
      ++ commandEvents r (if c.rows > 1 then 0x28 else 0x20) ++ commandEvents r 0x06
      ++ commandEvents r 0x0C ++ slowCommandEvents r 0x01
    (s.seq = .idle → c.wf = true →
        (AllAck s n → construct c s = some (.ok, ((r.writeD true).observed es).complete .ok))
        ∧ (∀ j < n, ErrAfter s j → construct c s = some (.transportError,
            ((if j < n - 8 then r else r.writeD true).observed (cutAtWrite j es)).complete .transportError)))
    ∧ (s.seq ≠ .idle → construct c s = none)
    ∧ (c.wf = false → construct c s = none)

/-! ## Tables and values -/

/-- R41 (decision D19), in a legal configuration: ASCII is itself, an override wins, any other codepoint below 0x100 is itself, and
the rest, those that are not Unicode among them, have no glyph code. -/
def Obligations.CharMapLookup : Prop :=
  ∀ (c : Configuration) (cp : Codepoint), c.wf = true →
    (cp.toNat < 0x80 → charMap c cp = some (BitVec.ofNat 8 cp.toNat))
    ∧ (∀ g, (cp.toNat, g) ∈ c.charmapOverrides → charMap c cp = some (BitVec.ofNat 8 g))
    ∧ ((∀ g, (cp.toNat, g) ∉ c.charmapOverrides) → cp.toNat < 0x100 → charMap c cp = some (BitVec.ofNat 8 cp.toNat))
    ∧ ((∀ g, (cp.toNat, g) ∉ c.charmapOverrides) → 0x100 ≤ cp.toNat → charMap c cp = none)
    ∧ (0x110000 ≤ cp.toNat → charMap c cp = none)

/-- R42, R114: in a legal configuration the DDRAM address of every cell is `ROW_BASE[y] + x` with no truncation, at most 0x7F, the
set-DDRAM command is `0x80 + ROW_BASE[y] + x`, and two different cells have different addresses. -/
def Obligations.DdramAddressesAreExactAndDistinct : Prop :=
  ∀ (c : Configuration) (x y : Nat), c.wf = true → x < c.cols → y < c.rows →
    (ddramAddr c x y).toNat = (c.rowBase.at y).toNat + x
    ∧ (setDdram (ddramAddr c x y)).toNat = 0x80 + (c.rowBase.at y).toNat + x
    ∧ ∀ x' y', x' < c.cols → y' < c.rows → ddramAddr c x y = ddramAddr c x' y' → x = x' ∧ y = y'

/-- R76, R77, R78 (command values: decision D8): the display-control, function-set, set-CGRAM and set-DDRAM values, none of which is
one of the slow commands. -/
def Obligations.CommandValues : Prop :=
  (∀ s : State, (dctl s).toNat = 0x08 + 4 * s.d.toNat + 2 * s.c.toNat + s.b.toNat)
    ∧ (∀ c : Configuration, funcset c = if c.rows > 1 then 0x28 else 0x20)
    ∧ (∀ slot : BitVec 8, slot.toNat ≤ 7 → (setCgram slot).toNat = 0x40 + 8 * slot.toNat)
    ∧ (∀ a : DdramAddr, (setDdram a).toNat = 0x80 + a.toNat)
    ∧ (∀ s : State, 3 < (dctl s).toNat) ∧ (∀ c : Configuration, 3 < (funcset c).toNat)
    ∧ (∀ slot : BitVec 8, 3 < (setCgram slot).toNat) ∧ ∀ a : DdramAddr, 3 < (setDdram a).toNat

/-- R79 (decision D5): the status codes 0 to 5 in order; 6 and 7 are never returned. -/
def Obligations.StatusCodes : Prop :=
  Status.code .ok = 0 ∧ Status.code .transportError = 1 ∧ Status.code .invalidPosition = 2
    ∧ Status.code .invalidGlyphSlot = 3 ∧ Status.code .invalidCharacter = 4 ∧ Status.code .invalidOperation = 5
    ∧ ∀ st : Status, st.code ≠ 6 ∧ st.code ≠ 7

/-- R52, R87, R158 (decision D28; the reading of times is log 24): after an ACKed CLEAR, whatever times keep the trace's lower
bounds, the next write of any later operation starts at least 5000 µs after CLEAR's last write has finished. -/
def Obligations.ClearHoldsBackTheNextWrite : Prop :=
  ∀ (s t : State) (d : DeviceAddr) (b : Byte) (a : Answer) (times : List (Nat × Nat)) (ready : Nat),
    s.seq = .idle → AllAck s 4 → exec .clear s = .next t →
    honours ready (t.trace ++ [.write d b a]) times →
    ∃ before last next, times = before ++ [last, next] ∧ last.2 + 5000 ≤ next.1

/-! ## Where the host has no move -/

/-- R16 (decision D6), R154 (decision D23): the host's side has no meaning in an illegal configuration and no move while an operation
is in progress: no request is answered, and no PUTSTR or other pseudo-instruction with a request in it. That the answer is none is the
model's choice (log 19). -/
def Obligations.HostHasNoMoveOutsideTheModel : Prop :=
  ∀ s : State, (s.cfg.wf = false ∨ s.seq ≠ .idle) →
    (∀ i : Instr, hostRequest i s = none)
    ∧ (∀ p : Pseudo, (s.cfg.wf = false ∨ p ≠ .putstr []) → runPseudo p s = none)
end

