-- ==== Sys2Proof/Laws/Decode.lean ====
section
/-! SUPPORT. The fields of an encoded word, read back: its opcode or kind, its fixed bits and its operands; and words given by their
fixed bits. -/

namespace Sys2Proof

/-! ## Fields of encoded words -/

theorem opcodeOf_putchar (cp : Codepoint) : opcodeOf (0x03#8 ++ 0#3 ++ cp : BitVec 32) = 0x03#8 := by
  simp only [opcodeOf]
  apply BitVec.eq_of_getLsbD_eq; intro i hi
  simp only [BitVec.getLsbD_extractLsb', BitVec.getLsbD_append]
  interval_cases i <;> simp

theorem mask_putchar (cp : Codepoint) : (0x03#8 ++ 0#3 ++ cp : BitVec 32) &&& 0xFFE00000#32 = 0x03000000#32 := by
  apply BitVec.eq_of_getLsbD_eq; intro i hi
  simp only [BitVec.getLsbD_and, BitVec.getLsbD_append]
  interval_cases i <;> simp

theorem operand_putchar_cp (cp : Codepoint) : (0x03#8 ++ 0#3 ++ cp : BitVec 32).extractLsb' 0 21 = cp := by
  apply BitVec.eq_of_getLsbD_eq; intro i hi
  simp only [BitVec.getLsbD_extractLsb', BitVec.getLsbD_append]
  interval_cases i <;> simp

theorem opcodeOf_moveto (col row : BitVec 8) : opcodeOf (0x04#8 ++ 0#8 ++ col ++ row : BitVec 32) = 0x04#8 := by
  simp only [opcodeOf]
  apply BitVec.eq_of_getLsbD_eq; intro i hi
  simp only [BitVec.getLsbD_extractLsb', BitVec.getLsbD_append]
  interval_cases i <;> simp

theorem mask_moveto (col row : BitVec 8) : (0x04#8 ++ 0#8 ++ col ++ row : BitVec 32) &&& 0xFFFF0000#32 = 0x04000000#32 := by
  apply BitVec.eq_of_getLsbD_eq; intro i hi
  simp only [BitVec.getLsbD_and, BitVec.getLsbD_append]
  interval_cases i <;> simp

theorem operand_moveto_col (col row : BitVec 8) : (0x04#8 ++ 0#8 ++ col ++ row : BitVec 32).extractLsb' 8 8 = col := by
  apply BitVec.eq_of_getLsbD_eq; intro i hi
  simp only [BitVec.getLsbD_extractLsb', BitVec.getLsbD_append]
  interval_cases i <;> simp

theorem operand_moveto_row (col row : BitVec 8) : (0x04#8 ++ 0#8 ++ col ++ row : BitVec 32).extractLsb' 0 8 = row := by
  apply BitVec.eq_of_getLsbD_eq; intro i hi
  simp only [BitVec.getLsbD_extractLsb', BitVec.getLsbD_append]
  interval_cases i <;> simp

theorem opcodeOf_glyph (slot : BitVec 8) : opcodeOf (0x09#8 ++ 0#16 ++ slot : BitVec 32) = 0x09#8 := by
  simp only [opcodeOf]
  apply BitVec.eq_of_getLsbD_eq; intro i hi
  simp only [BitVec.getLsbD_extractLsb', BitVec.getLsbD_append]
  interval_cases i <;> simp

theorem mask_glyph (slot : BitVec 8) : (0x09#8 ++ 0#16 ++ slot : BitVec 32) &&& 0xFFFFFF00#32 = 0x09000000#32 := by
  apply BitVec.eq_of_getLsbD_eq; intro i hi
  simp only [BitVec.getLsbD_and, BitVec.getLsbD_append]
  interval_cases i <;> simp

theorem operand_glyph_slot (slot : BitVec 8) : (0x09#8 ++ 0#16 ++ slot : BitVec 32).extractLsb' 0 8 = slot := by
  apply BitVec.eq_of_getLsbD_eq; intro i hi
  simp only [BitVec.getLsbD_extractLsb', BitVec.getLsbD_append]
  interval_cases i <;> simp

theorem kindOf_tWait (us : Micros) : kindOf (0x4#4 ++ us : BitVec 24) = 0x4#4 := by
  simp only [kindOf]
  apply BitVec.eq_of_getLsbD_eq; intro i hi
  simp only [BitVec.getLsbD_extractLsb', BitVec.getLsbD_append]
  interval_cases i <;> simp

theorem mask_tWait (us : Micros) : (0x4#4 ++ us : BitVec 24) &&& 0xF00000#24 = 0x400000#24 := by
  apply BitVec.eq_of_getLsbD_eq; intro i hi
  simp only [BitVec.getLsbD_and, BitVec.getLsbD_append]
  interval_cases i <;> simp

theorem operand_tWait_us (us : Micros) : (0x4#4 ++ us : BitVec 24).extractLsb' 0 20 = us := by
  apply BitVec.eq_of_getLsbD_eq; intro i hi
  simp only [BitVec.getLsbD_extractLsb', BitVec.getLsbD_append]
  interval_cases i <;> simp

/-- The bytes of a packed payload word (R68). -/
theorem unpack_packWord (b0 b1 b2 b3 : Byte) :
    (packWord b0 b1 b2 b3).extractLsb' 0 8 = b0 ∧ (packWord b0 b1 b2 b3).extractLsb' 8 8 = b1
      ∧ (packWord b0 b1 b2 b3).extractLsb' 16 8 = b2 ∧ (packWord b0 b1 b2 b3).extractLsb' 24 8 = b3 := by
  simp only [packWord]
  refine ⟨?_, ?_, ?_, ?_⟩ <;> apply BitVec.eq_of_getLsbD_eq <;> intro i hi <;>
    simp only [BitVec.getLsbD_extractLsb', BitVec.getLsbD_append] <;> interval_cases i <;> simp

theorem unpackPattern_packPattern (p : Vector Byte 8) : unpackPattern (packPattern p).1 (packPattern p).2 = p := by
  apply Vector.ext
  intro i hi
  have h1 := unpack_packWord p[0] p[1] p[2] p[3]
  have h2 := unpack_packWord p[4] p[5] p[6] p[7]
  interval_cases i <;> simp [unpackPattern, packPattern, h1, h2]

theorem packPattern_unpackPattern (p0 p1 : RequestWord) : packPattern (unpackPattern p0 p1) = (p0, p1) := by
  simp only [packPattern, unpackPattern, packWord, Prod.mk.injEq]
  constructor <;> apply BitVec.eq_of_getLsbD_eq <;> intro i hi <;>
    simp only [BitVec.getLsbD_append] <;> interval_cases i <;> simp

/-! ## Words given by their fixed bits -/

/-- A bit under the mask is the bit of the fixed value. -/
theorem getLsbD_of_mask {n : Nat} {word mask value : BitVec n} (e : word &&& mask = value) {i : Nat}
    (hm : mask.getLsbD i = true) : word.getLsbD i = value.getLsbD i := by
  rw [← e]; simp [hm]

/-- When the mask holds all of `OPC`, a word of a row has the row's opcode (R59, R71). -/
theorem opcodeOf_of_mask {h mask value : RequestWord} (e : h &&& mask = value) (hm : mask.extractLsb' 24 8 = 0xFF#8) :
    opcodeOf h = value.extractLsb' 24 8 := by
  rw [← e]
  simp only [opcodeOf]
  rw [BitVec.extractLsb'_and, hm]
  exact BitVec.and_allOnes.symm

/-- When the mask holds all of `KIND`, a word of a row has the row's kind (R72). -/
theorem kindOf_of_mask {t mask value : TransportWord} (e : t &&& mask = value) (hm : mask.extractLsb' 20 4 = 0xF#4) :
    kindOf t = value.extractLsb' 20 4 := by
  rw [← e]
  simp only [kindOf]
  rw [BitVec.extractLsb'_and, hm]
  exact BitVec.and_allOnes.symm

end Sys2Proof
end

