-- ==== Sys2Proof/Laws/State.lean ====
section
/-! SUPPORT. What each update of State does to each field, true by rfl, so that no proof unfolds a record update; and the flag bits
after a flag write. -/

namespace Sys2Proof.Machine

open Sys2Proof

section fields

variable (s : State)

@[simp] theorem State.withCursorX_cfg (x : BitVec 8) : (s.withCursorX x).cfg = s.cfg := rfl
@[simp] theorem State.withCursorX_cursorX (x : BitVec 8) : (s.withCursorX x).cursorX = x := rfl
@[simp] theorem State.withCursorX_cursorY (x : BitVec 8) : (s.withCursorX x).cursorY = s.cursorY := rfl
@[simp] theorem State.withCursorX_impliedNl (x : BitVec 8) : (s.withCursorX x).impliedNl = s.impliedNl := rfl
@[simp] theorem State.withCursorX_flags (x : BitVec 8) : (s.withCursorX x).flags = s.flags := rfl
@[simp] theorem State.withCursorX_seq (x : BitVec 8) : (s.withCursorX x).seq = s.seq := rfl
@[simp] theorem State.withCursorX_trace (x : BitVec 8) : (s.withCursorX x).trace = s.trace := rfl
@[simp] theorem State.withCursorX_hostPort (x : BitVec 8) : (s.withCursorX x).hostPort = s.hostPort := rfl
@[simp] theorem State.withCursorX_adapterPort (x : BitVec 8) : (s.withCursorX x).adapterPort = s.adapterPort := rfl
@[simp] theorem State.withCursorX_answers (x : BitVec 8) : (s.withCursorX x).answers = s.answers := rfl
@[simp] theorem State.withCursorX_draws (x : BitVec 8) : (s.withCursorX x).draws = s.draws := rfl
@[simp] theorem State.withCursorX_responses (x : BitVec 8) : (s.withCursorX x).responses = s.responses := rfl

@[simp] theorem State.withCursorY_cfg (y : BitVec 2) : (s.withCursorY y).cfg = s.cfg := rfl
@[simp] theorem State.withCursorY_cursorX (y : BitVec 2) : (s.withCursorY y).cursorX = s.cursorX := rfl
@[simp] theorem State.withCursorY_cursorY (y : BitVec 2) : (s.withCursorY y).cursorY = y := rfl
@[simp] theorem State.withCursorY_impliedNl (y : BitVec 2) : (s.withCursorY y).impliedNl = s.impliedNl := rfl
@[simp] theorem State.withCursorY_flags (y : BitVec 2) : (s.withCursorY y).flags = s.flags := rfl
@[simp] theorem State.withCursorY_seq (y : BitVec 2) : (s.withCursorY y).seq = s.seq := rfl
@[simp] theorem State.withCursorY_trace (y : BitVec 2) : (s.withCursorY y).trace = s.trace := rfl
@[simp] theorem State.withCursorY_hostPort (y : BitVec 2) : (s.withCursorY y).hostPort = s.hostPort := rfl
@[simp] theorem State.withCursorY_adapterPort (y : BitVec 2) : (s.withCursorY y).adapterPort = s.adapterPort := rfl
@[simp] theorem State.withCursorY_answers (y : BitVec 2) : (s.withCursorY y).answers = s.answers := rfl
@[simp] theorem State.withCursorY_draws (y : BitVec 2) : (s.withCursorY y).draws = s.draws := rfl
@[simp] theorem State.withCursorY_responses (y : BitVec 2) : (s.withCursorY y).responses = s.responses := rfl

@[simp] theorem State.withImpliedNl_cfg (v : Bool) : (s.withImpliedNl v).cfg = s.cfg := rfl
@[simp] theorem State.withImpliedNl_cursorX (v : Bool) : (s.withImpliedNl v).cursorX = s.cursorX := rfl
@[simp] theorem State.withImpliedNl_cursorY (v : Bool) : (s.withImpliedNl v).cursorY = s.cursorY := rfl
@[simp] theorem State.withImpliedNl_impliedNl (v : Bool) : (s.withImpliedNl v).impliedNl = v := rfl
@[simp] theorem State.withImpliedNl_flags (v : Bool) : (s.withImpliedNl v).flags = s.flags := rfl
@[simp] theorem State.withImpliedNl_seq (v : Bool) : (s.withImpliedNl v).seq = s.seq := rfl
@[simp] theorem State.withImpliedNl_trace (v : Bool) : (s.withImpliedNl v).trace = s.trace := rfl
@[simp] theorem State.withImpliedNl_hostPort (v : Bool) : (s.withImpliedNl v).hostPort = s.hostPort := rfl
@[simp] theorem State.withImpliedNl_adapterPort (v : Bool) : (s.withImpliedNl v).adapterPort = s.adapterPort := rfl
@[simp] theorem State.withImpliedNl_answers (v : Bool) : (s.withImpliedNl v).answers = s.answers := rfl
@[simp] theorem State.withImpliedNl_draws (v : Bool) : (s.withImpliedNl v).draws = s.draws := rfl
@[simp] theorem State.withImpliedNl_responses (v : Bool) : (s.withImpliedNl v).responses = s.responses := rfl

@[simp] theorem State.withFlags_cfg (f : BitVec 4) : (s.withFlags f).cfg = s.cfg := rfl
@[simp] theorem State.withFlags_cursorX (f : BitVec 4) : (s.withFlags f).cursorX = s.cursorX := rfl
@[simp] theorem State.withFlags_cursorY (f : BitVec 4) : (s.withFlags f).cursorY = s.cursorY := rfl
@[simp] theorem State.withFlags_impliedNl (f : BitVec 4) : (s.withFlags f).impliedNl = s.impliedNl := rfl
@[simp] theorem State.withFlags_flags (f : BitVec 4) : (s.withFlags f).flags = f := rfl
@[simp] theorem State.withFlags_seq (f : BitVec 4) : (s.withFlags f).seq = s.seq := rfl
@[simp] theorem State.withFlags_trace (f : BitVec 4) : (s.withFlags f).trace = s.trace := rfl
@[simp] theorem State.withFlags_hostPort (f : BitVec 4) : (s.withFlags f).hostPort = s.hostPort := rfl
@[simp] theorem State.withFlags_adapterPort (f : BitVec 4) : (s.withFlags f).adapterPort = s.adapterPort := rfl
@[simp] theorem State.withFlags_answers (f : BitVec 4) : (s.withFlags f).answers = s.answers := rfl
@[simp] theorem State.withFlags_draws (f : BitVec 4) : (s.withFlags f).draws = s.draws := rfl
@[simp] theorem State.withFlags_responses (f : BitVec 4) : (s.withFlags f).responses = s.responses := rfl

@[simp] theorem State.withSeq_cfg (q : Seq) : (s.withSeq q).cfg = s.cfg := rfl
@[simp] theorem State.withSeq_cursorX (q : Seq) : (s.withSeq q).cursorX = s.cursorX := rfl
@[simp] theorem State.withSeq_cursorY (q : Seq) : (s.withSeq q).cursorY = s.cursorY := rfl
@[simp] theorem State.withSeq_impliedNl (q : Seq) : (s.withSeq q).impliedNl = s.impliedNl := rfl
@[simp] theorem State.withSeq_flags (q : Seq) : (s.withSeq q).flags = s.flags := rfl
@[simp] theorem State.withSeq_seq (q : Seq) : (s.withSeq q).seq = q := rfl
@[simp] theorem State.withSeq_trace (q : Seq) : (s.withSeq q).trace = s.trace := rfl
@[simp] theorem State.withSeq_hostPort (q : Seq) : (s.withSeq q).hostPort = s.hostPort := rfl
@[simp] theorem State.withSeq_adapterPort (q : Seq) : (s.withSeq q).adapterPort = s.adapterPort := rfl
@[simp] theorem State.withSeq_answers (q : Seq) : (s.withSeq q).answers = s.answers := rfl
@[simp] theorem State.withSeq_draws (q : Seq) : (s.withSeq q).draws = s.draws := rfl
@[simp] theorem State.withSeq_responses (q : Seq) : (s.withSeq q).responses = s.responses := rfl

@[simp] theorem State.withHostPort_cfg (ws : List RequestWord) : (s.withHostPort ws).cfg = s.cfg := rfl
@[simp] theorem State.withHostPort_cursorX (ws : List RequestWord) : (s.withHostPort ws).cursorX = s.cursorX := rfl
@[simp] theorem State.withHostPort_cursorY (ws : List RequestWord) : (s.withHostPort ws).cursorY = s.cursorY := rfl
@[simp] theorem State.withHostPort_impliedNl (ws : List RequestWord) : (s.withHostPort ws).impliedNl = s.impliedNl := rfl
@[simp] theorem State.withHostPort_flags (ws : List RequestWord) : (s.withHostPort ws).flags = s.flags := rfl
@[simp] theorem State.withHostPort_seq (ws : List RequestWord) : (s.withHostPort ws).seq = s.seq := rfl
@[simp] theorem State.withHostPort_trace (ws : List RequestWord) : (s.withHostPort ws).trace = s.trace := rfl
@[simp] theorem State.withHostPort_hostPort (ws : List RequestWord) : (s.withHostPort ws).hostPort = ws := rfl
@[simp] theorem State.withHostPort_adapterPort (ws : List RequestWord) : (s.withHostPort ws).adapterPort = s.adapterPort := rfl
@[simp] theorem State.withHostPort_answers (ws : List RequestWord) : (s.withHostPort ws).answers = s.answers := rfl
@[simp] theorem State.withHostPort_draws (ws : List RequestWord) : (s.withHostPort ws).draws = s.draws := rfl
@[simp] theorem State.withHostPort_responses (ws : List RequestWord) : (s.withHostPort ws).responses = s.responses := rfl

@[simp] theorem State.withAdapterPort_cfg (t : Option TransportWord) : (s.withAdapterPort t).cfg = s.cfg := rfl
@[simp] theorem State.withAdapterPort_cursorX (t : Option TransportWord) : (s.withAdapterPort t).cursorX = s.cursorX := rfl
@[simp] theorem State.withAdapterPort_cursorY (t : Option TransportWord) : (s.withAdapterPort t).cursorY = s.cursorY := rfl
@[simp] theorem State.withAdapterPort_impliedNl (t : Option TransportWord) : (s.withAdapterPort t).impliedNl = s.impliedNl := rfl
@[simp] theorem State.withAdapterPort_flags (t : Option TransportWord) : (s.withAdapterPort t).flags = s.flags := rfl
@[simp] theorem State.withAdapterPort_seq (t : Option TransportWord) : (s.withAdapterPort t).seq = s.seq := rfl
@[simp] theorem State.withAdapterPort_trace (t : Option TransportWord) : (s.withAdapterPort t).trace = s.trace := rfl
@[simp] theorem State.withAdapterPort_hostPort (t : Option TransportWord) : (s.withAdapterPort t).hostPort = s.hostPort := rfl
@[simp] theorem State.withAdapterPort_adapterPort (t : Option TransportWord) : (s.withAdapterPort t).adapterPort = t := rfl
@[simp] theorem State.withAdapterPort_answers (t : Option TransportWord) : (s.withAdapterPort t).answers = s.answers := rfl
@[simp] theorem State.withAdapterPort_draws (t : Option TransportWord) : (s.withAdapterPort t).draws = s.draws := rfl
@[simp] theorem State.withAdapterPort_responses (t : Option TransportWord) : (s.withAdapterPort t).responses = s.responses := rfl

@[simp] theorem State.writeBl_cfg (v : Bool) : (s.writeBl v).cfg = s.cfg := rfl
@[simp] theorem State.writeBl_cursorX (v : Bool) : (s.writeBl v).cursorX = s.cursorX := rfl
@[simp] theorem State.writeBl_cursorY (v : Bool) : (s.writeBl v).cursorY = s.cursorY := rfl
@[simp] theorem State.writeBl_impliedNl (v : Bool) : (s.writeBl v).impliedNl = s.impliedNl := rfl
@[simp] theorem State.writeBl_flags (v : Bool) : (s.writeBl v).flags = withFlag s.flags 3 v := rfl
@[simp] theorem State.writeBl_seq (v : Bool) : (s.writeBl v).seq = s.seq := rfl
@[simp] theorem State.writeBl_trace (v : Bool) : (s.writeBl v).trace = s.trace := rfl
@[simp] theorem State.writeBl_hostPort (v : Bool) : (s.writeBl v).hostPort = s.hostPort := rfl
@[simp] theorem State.writeBl_adapterPort (v : Bool) : (s.writeBl v).adapterPort = s.adapterPort := rfl
@[simp] theorem State.writeBl_answers (v : Bool) : (s.writeBl v).answers = s.answers := rfl
@[simp] theorem State.writeBl_draws (v : Bool) : (s.writeBl v).draws = s.draws := rfl
@[simp] theorem State.writeBl_responses (v : Bool) : (s.writeBl v).responses = s.responses := rfl

@[simp] theorem State.writeD_cfg (v : Bool) : (s.writeD v).cfg = s.cfg := rfl
@[simp] theorem State.writeD_cursorX (v : Bool) : (s.writeD v).cursorX = s.cursorX := rfl
@[simp] theorem State.writeD_cursorY (v : Bool) : (s.writeD v).cursorY = s.cursorY := rfl
@[simp] theorem State.writeD_impliedNl (v : Bool) : (s.writeD v).impliedNl = s.impliedNl := rfl
@[simp] theorem State.writeD_flags (v : Bool) : (s.writeD v).flags = withFlag s.flags 2 v := rfl
@[simp] theorem State.writeD_seq (v : Bool) : (s.writeD v).seq = s.seq := rfl
@[simp] theorem State.writeD_trace (v : Bool) : (s.writeD v).trace = s.trace := rfl
@[simp] theorem State.writeD_hostPort (v : Bool) : (s.writeD v).hostPort = s.hostPort := rfl
@[simp] theorem State.writeD_adapterPort (v : Bool) : (s.writeD v).adapterPort = s.adapterPort := rfl
@[simp] theorem State.writeD_answers (v : Bool) : (s.writeD v).answers = s.answers := rfl
@[simp] theorem State.writeD_draws (v : Bool) : (s.writeD v).draws = s.draws := rfl
@[simp] theorem State.writeD_responses (v : Bool) : (s.writeD v).responses = s.responses := rfl

@[simp] theorem State.writeC_cfg (v : Bool) : (s.writeC v).cfg = s.cfg := rfl
@[simp] theorem State.writeC_cursorX (v : Bool) : (s.writeC v).cursorX = s.cursorX := rfl
@[simp] theorem State.writeC_cursorY (v : Bool) : (s.writeC v).cursorY = s.cursorY := rfl
@[simp] theorem State.writeC_impliedNl (v : Bool) : (s.writeC v).impliedNl = s.impliedNl := rfl
@[simp] theorem State.writeC_flags (v : Bool) : (s.writeC v).flags = withFlag s.flags 1 v := rfl
@[simp] theorem State.writeC_seq (v : Bool) : (s.writeC v).seq = s.seq := rfl
@[simp] theorem State.writeC_trace (v : Bool) : (s.writeC v).trace = s.trace := rfl
@[simp] theorem State.writeC_hostPort (v : Bool) : (s.writeC v).hostPort = s.hostPort := rfl
@[simp] theorem State.writeC_adapterPort (v : Bool) : (s.writeC v).adapterPort = s.adapterPort := rfl
@[simp] theorem State.writeC_answers (v : Bool) : (s.writeC v).answers = s.answers := rfl
@[simp] theorem State.writeC_draws (v : Bool) : (s.writeC v).draws = s.draws := rfl
@[simp] theorem State.writeC_responses (v : Bool) : (s.writeC v).responses = s.responses := rfl

@[simp] theorem State.writeB_cfg (v : Bool) : (s.writeB v).cfg = s.cfg := rfl
@[simp] theorem State.writeB_cursorX (v : Bool) : (s.writeB v).cursorX = s.cursorX := rfl
@[simp] theorem State.writeB_cursorY (v : Bool) : (s.writeB v).cursorY = s.cursorY := rfl
@[simp] theorem State.writeB_impliedNl (v : Bool) : (s.writeB v).impliedNl = s.impliedNl := rfl
@[simp] theorem State.writeB_flags (v : Bool) : (s.writeB v).flags = withFlag s.flags 0 v := rfl
@[simp] theorem State.writeB_seq (v : Bool) : (s.writeB v).seq = s.seq := rfl
@[simp] theorem State.writeB_trace (v : Bool) : (s.writeB v).trace = s.trace := rfl
@[simp] theorem State.writeB_hostPort (v : Bool) : (s.writeB v).hostPort = s.hostPort := rfl
@[simp] theorem State.writeB_adapterPort (v : Bool) : (s.writeB v).adapterPort = s.adapterPort := rfl
@[simp] theorem State.writeB_answers (v : Bool) : (s.writeB v).answers = s.answers := rfl
@[simp] theorem State.writeB_draws (v : Bool) : (s.writeB v).draws = s.draws := rfl
@[simp] theorem State.writeB_responses (v : Bool) : (s.writeB v).responses = s.responses := rfl

@[simp] theorem State.afterWrite_cfg (b : Byte) (a : Answer) : (s.afterWrite b a).cfg = s.cfg := rfl
@[simp] theorem State.afterWrite_cursorX (b : Byte) (a : Answer) : (s.afterWrite b a).cursorX = s.cursorX := rfl
@[simp] theorem State.afterWrite_cursorY (b : Byte) (a : Answer) : (s.afterWrite b a).cursorY = s.cursorY := rfl
@[simp] theorem State.afterWrite_impliedNl (b : Byte) (a : Answer) : (s.afterWrite b a).impliedNl = s.impliedNl := rfl
@[simp] theorem State.afterWrite_flags (b : Byte) (a : Answer) : (s.afterWrite b a).flags = s.flags := rfl
@[simp] theorem State.afterWrite_seq (b : Byte) (a : Answer) : (s.afterWrite b a).seq = s.seq := rfl
@[simp] theorem State.afterWrite_trace (b : Byte) (a : Answer) : (s.afterWrite b a).trace = s.trace ++ [.write (deviceAddr s.cfg) b a] := rfl
@[simp] theorem State.afterWrite_hostPort (b : Byte) (a : Answer) : (s.afterWrite b a).hostPort = s.hostPort := rfl
@[simp] theorem State.afterWrite_adapterPort (b : Byte) (a : Answer) : (s.afterWrite b a).adapterPort = s.adapterPort := rfl
@[simp] theorem State.afterWrite_answers (b : Byte) (a : Answer) : (s.afterWrite b a).answers = s.answers.tail := rfl
@[simp] theorem State.afterWrite_draws (b : Byte) (a : Answer) : (s.afterWrite b a).draws = s.draws + 1 := rfl
@[simp] theorem State.afterWrite_responses (b : Byte) (a : Answer) : (s.afterWrite b a).responses = s.responses := rfl

@[simp] theorem State.afterWait_cfg (t : Micros) : (s.afterWait t).cfg = s.cfg := rfl
@[simp] theorem State.afterWait_cursorX (t : Micros) : (s.afterWait t).cursorX = s.cursorX := rfl
@[simp] theorem State.afterWait_cursorY (t : Micros) : (s.afterWait t).cursorY = s.cursorY := rfl
@[simp] theorem State.afterWait_impliedNl (t : Micros) : (s.afterWait t).impliedNl = s.impliedNl := rfl
@[simp] theorem State.afterWait_flags (t : Micros) : (s.afterWait t).flags = s.flags := rfl
@[simp] theorem State.afterWait_seq (t : Micros) : (s.afterWait t).seq = s.seq := rfl
@[simp] theorem State.afterWait_trace (t : Micros) : (s.afterWait t).trace = s.trace ++ [.wait t] := rfl
@[simp] theorem State.afterWait_hostPort (t : Micros) : (s.afterWait t).hostPort = s.hostPort := rfl
@[simp] theorem State.afterWait_adapterPort (t : Micros) : (s.afterWait t).adapterPort = s.adapterPort := rfl
@[simp] theorem State.afterWait_answers (t : Micros) : (s.afterWait t).answers = s.answers := rfl
@[simp] theorem State.afterWait_draws (t : Micros) : (s.afterWait t).draws = s.draws := rfl
@[simp] theorem State.afterWait_responses (t : Micros) : (s.afterWait t).responses = s.responses := rfl

@[simp] theorem State.complete_cfg (st : Status) : (s.complete st).cfg = s.cfg := rfl
@[simp] theorem State.complete_cursorX (st : Status) : (s.complete st).cursorX = s.cursorX := rfl
@[simp] theorem State.complete_cursorY (st : Status) : (s.complete st).cursorY = s.cursorY := rfl
@[simp] theorem State.complete_impliedNl (st : Status) : (s.complete st).impliedNl = s.impliedNl := rfl
@[simp] theorem State.complete_flags (st : Status) : (s.complete st).flags = s.flags := rfl
@[simp] theorem State.complete_seq (st : Status) : (s.complete st).seq = .idle := rfl
@[simp] theorem State.complete_trace (st : Status) : (s.complete st).trace = s.trace := rfl
@[simp] theorem State.complete_hostPort (st : Status) : (s.complete st).hostPort = s.hostPort := rfl
@[simp] theorem State.complete_adapterPort (st : Status) : (s.complete st).adapterPort = s.adapterPort := rfl
@[simp] theorem State.complete_answers (st : Status) : (s.complete st).answers = s.answers := rfl
@[simp] theorem State.complete_draws (st : Status) : (s.complete st).draws = s.draws := rfl
@[simp] theorem State.complete_responses (st : Status) : (s.complete st).responses = s.responses ++ [st] := rfl

@[simp] theorem State.observed_cfg (es : List Event) : (s.observed es).cfg = s.cfg := rfl
@[simp] theorem State.observed_cursorX (es : List Event) : (s.observed es).cursorX = s.cursorX := rfl
@[simp] theorem State.observed_cursorY (es : List Event) : (s.observed es).cursorY = s.cursorY := rfl
@[simp] theorem State.observed_impliedNl (es : List Event) : (s.observed es).impliedNl = s.impliedNl := rfl
@[simp] theorem State.observed_flags (es : List Event) : (s.observed es).flags = s.flags := rfl
@[simp] theorem State.observed_seq (es : List Event) : (s.observed es).seq = s.seq := rfl
@[simp] theorem State.observed_trace (es : List Event) : (s.observed es).trace = s.trace ++ es := rfl
@[simp] theorem State.observed_hostPort (es : List Event) : (s.observed es).hostPort = s.hostPort := rfl
@[simp] theorem State.observed_adapterPort (es : List Event) : (s.observed es).adapterPort = s.adapterPort := rfl
@[simp] theorem State.observed_answers (es : List Event) : (s.observed es).answers = s.answers.drop (writeCount es) := rfl
@[simp] theorem State.observed_draws (es : List Event) : (s.observed es).draws = s.draws + writeCount es := rfl
@[simp] theorem State.observed_responses (es : List Event) : (s.observed es).responses = s.responses := rfl

end fields

/-! ## Flag bits -/

theorem withFlag_getLsbD (f : BitVec 4) (v : Bool) :
    ∀ i < 4, ∀ j < 4, (withFlag f i v).getLsbD j = if i = j then v else f.getLsbD j := by
  revert f v; decide

@[simp] theorem State.writeBl_bl (s : State) (v : Bool) : (s.writeBl v).bl = v :=
  withFlag_getLsbD s.flags v 3 (by decide) 3 (by decide)

@[simp] theorem State.writeBl_d (s : State) (v : Bool) : (s.writeBl v).d = s.d :=
  withFlag_getLsbD s.flags v 3 (by decide) 2 (by decide)

@[simp] theorem State.writeBl_c (s : State) (v : Bool) : (s.writeBl v).c = s.c :=
  withFlag_getLsbD s.flags v 3 (by decide) 1 (by decide)

@[simp] theorem State.writeBl_b (s : State) (v : Bool) : (s.writeBl v).b = s.b :=
  withFlag_getLsbD s.flags v 3 (by decide) 0 (by decide)

@[simp] theorem State.writeD_bl (s : State) (v : Bool) : (s.writeD v).bl = s.bl :=
  withFlag_getLsbD s.flags v 2 (by decide) 3 (by decide)

@[simp] theorem State.writeD_d (s : State) (v : Bool) : (s.writeD v).d = v :=
  withFlag_getLsbD s.flags v 2 (by decide) 2 (by decide)

@[simp] theorem State.writeD_c (s : State) (v : Bool) : (s.writeD v).c = s.c :=
  withFlag_getLsbD s.flags v 2 (by decide) 1 (by decide)

@[simp] theorem State.writeD_b (s : State) (v : Bool) : (s.writeD v).b = s.b :=
  withFlag_getLsbD s.flags v 2 (by decide) 0 (by decide)

@[simp] theorem State.writeC_bl (s : State) (v : Bool) : (s.writeC v).bl = s.bl :=
  withFlag_getLsbD s.flags v 1 (by decide) 3 (by decide)

@[simp] theorem State.writeC_d (s : State) (v : Bool) : (s.writeC v).d = s.d :=
  withFlag_getLsbD s.flags v 1 (by decide) 2 (by decide)

@[simp] theorem State.writeC_c (s : State) (v : Bool) : (s.writeC v).c = v :=
  withFlag_getLsbD s.flags v 1 (by decide) 1 (by decide)

@[simp] theorem State.writeC_b (s : State) (v : Bool) : (s.writeC v).b = s.b :=
  withFlag_getLsbD s.flags v 1 (by decide) 0 (by decide)

@[simp] theorem State.writeB_bl (s : State) (v : Bool) : (s.writeB v).bl = s.bl :=
  withFlag_getLsbD s.flags v 0 (by decide) 3 (by decide)

@[simp] theorem State.writeB_d (s : State) (v : Bool) : (s.writeB v).d = s.d :=
  withFlag_getLsbD s.flags v 0 (by decide) 2 (by decide)

@[simp] theorem State.writeB_c (s : State) (v : Bool) : (s.writeB v).c = s.c :=
  withFlag_getLsbD s.flags v 0 (by decide) 1 (by decide)

@[simp] theorem State.writeB_b (s : State) (v : Bool) : (s.writeB v).b = v :=
  withFlag_getLsbD s.flags v 0 (by decide) 0 (by decide)

@[simp] theorem State.withCursorX_bl (s : State) (x : BitVec 8) : (s.withCursorX x).bl = s.bl := rfl
@[simp] theorem State.withCursorX_d (s : State) (x : BitVec 8) : (s.withCursorX x).d = s.d := rfl
@[simp] theorem State.withCursorX_c (s : State) (x : BitVec 8) : (s.withCursorX x).c = s.c := rfl
@[simp] theorem State.withCursorX_b (s : State) (x : BitVec 8) : (s.withCursorX x).b = s.b := rfl

@[simp] theorem State.withCursorY_bl (s : State) (y : BitVec 2) : (s.withCursorY y).bl = s.bl := rfl
@[simp] theorem State.withCursorY_d (s : State) (y : BitVec 2) : (s.withCursorY y).d = s.d := rfl
@[simp] theorem State.withCursorY_c (s : State) (y : BitVec 2) : (s.withCursorY y).c = s.c := rfl
@[simp] theorem State.withCursorY_b (s : State) (y : BitVec 2) : (s.withCursorY y).b = s.b := rfl

@[simp] theorem State.withImpliedNl_bl (s : State) (v : Bool) : (s.withImpliedNl v).bl = s.bl := rfl
@[simp] theorem State.withImpliedNl_d (s : State) (v : Bool) : (s.withImpliedNl v).d = s.d := rfl
@[simp] theorem State.withImpliedNl_c (s : State) (v : Bool) : (s.withImpliedNl v).c = s.c := rfl
@[simp] theorem State.withImpliedNl_b (s : State) (v : Bool) : (s.withImpliedNl v).b = s.b := rfl

@[simp] theorem State.withSeq_bl (s : State) (q : Seq) : (s.withSeq q).bl = s.bl := rfl
@[simp] theorem State.withSeq_d (s : State) (q : Seq) : (s.withSeq q).d = s.d := rfl
@[simp] theorem State.withSeq_c (s : State) (q : Seq) : (s.withSeq q).c = s.c := rfl
@[simp] theorem State.withSeq_b (s : State) (q : Seq) : (s.withSeq q).b = s.b := rfl

@[simp] theorem State.withHostPort_bl (s : State) (ws : List RequestWord) : (s.withHostPort ws).bl = s.bl := rfl
@[simp] theorem State.withHostPort_d (s : State) (ws : List RequestWord) : (s.withHostPort ws).d = s.d := rfl
@[simp] theorem State.withHostPort_c (s : State) (ws : List RequestWord) : (s.withHostPort ws).c = s.c := rfl
@[simp] theorem State.withHostPort_b (s : State) (ws : List RequestWord) : (s.withHostPort ws).b = s.b := rfl

@[simp] theorem State.withAdapterPort_bl (s : State) (t : Option TransportWord) : (s.withAdapterPort t).bl = s.bl := rfl
@[simp] theorem State.withAdapterPort_d (s : State) (t : Option TransportWord) : (s.withAdapterPort t).d = s.d := rfl
@[simp] theorem State.withAdapterPort_c (s : State) (t : Option TransportWord) : (s.withAdapterPort t).c = s.c := rfl
@[simp] theorem State.withAdapterPort_b (s : State) (t : Option TransportWord) : (s.withAdapterPort t).b = s.b := rfl

@[simp] theorem State.afterWrite_bl (s : State) (b : Byte) (a : Answer) : (s.afterWrite b a).bl = s.bl := rfl
@[simp] theorem State.afterWrite_d (s : State) (b : Byte) (a : Answer) : (s.afterWrite b a).d = s.d := rfl
@[simp] theorem State.afterWrite_c (s : State) (b : Byte) (a : Answer) : (s.afterWrite b a).c = s.c := rfl
@[simp] theorem State.afterWrite_b (s : State) (b : Byte) (a : Answer) : (s.afterWrite b a).b = s.b := rfl

@[simp] theorem State.afterWait_bl (s : State) (t : Micros) : (s.afterWait t).bl = s.bl := rfl
@[simp] theorem State.afterWait_d (s : State) (t : Micros) : (s.afterWait t).d = s.d := rfl
@[simp] theorem State.afterWait_c (s : State) (t : Micros) : (s.afterWait t).c = s.c := rfl
@[simp] theorem State.afterWait_b (s : State) (t : Micros) : (s.afterWait t).b = s.b := rfl

@[simp] theorem State.complete_bl (s : State) (st : Status) : (s.complete st).bl = s.bl := rfl
@[simp] theorem State.complete_d (s : State) (st : Status) : (s.complete st).d = s.d := rfl
@[simp] theorem State.complete_c (s : State) (st : Status) : (s.complete st).c = s.c := rfl
@[simp] theorem State.complete_b (s : State) (st : Status) : (s.complete st).b = s.b := rfl

@[simp] theorem State.observed_bl (s : State) (es : List Event) : (s.observed es).bl = s.bl := rfl
@[simp] theorem State.observed_d (s : State) (es : List Event) : (s.observed es).d = s.d := rfl
@[simp] theorem State.observed_c (s : State) (es : List Event) : (s.observed es).c = s.c := rfl
@[simp] theorem State.observed_b (s : State) (es : List Event) : (s.observed es).b = s.b := rfl

/-- Two FLAGS values with the same four bits are the same. -/
theorem flags_ext {f g : BitVec 4} (hbl : f.getLsbD 3 = g.getLsbD 3) (hd : f.getLsbD 2 = g.getLsbD 2)
    (hc : f.getLsbD 1 = g.getLsbD 1) (hb : f.getLsbD 0 = g.getLsbD 0) : f = g := by
  revert f g; decide

/-- Writing a flag twice is writing it once. -/
@[simp] theorem withFlag_withFlag (f : BitVec 4) (v w : Bool) :
    ∀ i < 4, withFlag (withFlag f i v) i w = withFlag f i w := by
  revert f v w; decide

/-- Writing a flag with its own value changes nothing. -/
theorem withFlag_self (f : BitVec 4) : ∀ i < 4, withFlag f i (f.getLsbD i) = f := by
  revert f; decide

theorem State.writeBl_self (s : State) : s.writeBl s.bl = s := by
  have h := withFlag_self s.flags 3 (by decide)
  unfold State.writeBl State.bl
  rw [h]
  rfl

end Sys2Proof.Machine
end

