-- ==== Sys2Proof/Laws/Ops.lean ====
section
/-! SUPPORT. What the shared bus operations do: the Transport's answers as a stream, a list of bus statements when every write is
ACKed and when one is answered ERR, and what they never touch. -/

namespace Sys2Proof.Machine

open Sys2Proof

/-! ## The stream of answers -/

theorem upcoming_afterWrite (s : State) (b : Byte) (a : Answer) (j : Nat) :
    (s.afterWrite b a).upcoming j = s.upcoming (j + 1) := by
  have h : s.answers.tail[j]? = s.answers[j + 1]? := by cases s.answers <;> simp
  simp only [State.upcoming, State.afterWrite_answers, State.afterWrite_draws, h, Nat.add_assoc, Nat.add_comm 1 j]

theorem upcoming_observed (s : State) (es : List Event) (j : Nat) :
    (s.observed es).upcoming j = s.upcoming (writeCount es + j) := by
  simp only [State.upcoming, State.observed_answers, State.observed_draws, List.getElem?_drop, Nat.add_assoc]

/-- The answers to come depend on the two input fields alone. -/
theorem upcoming_congr {s t : State} (ha : t.answers = s.answers) (hd : t.draws = s.draws) (j : Nat) :
    t.upcoming j = s.upcoming j := by
  simp only [State.upcoming, ha, hd]

theorem AllAck.mono {s : State} {m n : Nat} (h : AllAck s n) (hmn : m ≤ n) : AllAck s m :=
  fun j hj => h j (by omega)

theorem AllAck.congr {s t : State} {n : Nat} (h : AllAck s n) (ha : t.answers = s.answers) (hd : t.draws = s.draws) :
    AllAck t n :=
  fun j hj => (upcoming_congr ha hd j).trans (h j hj)

theorem AllAck.afterWrite {s : State} {n : Nat} (h : AllAck s (n + 1)) (b : Byte) (a : Answer) :
    AllAck (s.afterWrite b a) n :=
  fun j hj => (upcoming_afterWrite s b a j).trans (h (j + 1) (by omega))

theorem AllAck.observed {s : State} {es : List Event} {n : Nat} (h : AllAck s (writeCount es + n)) :
    AllAck (s.observed es) n :=
  fun j hj => (upcoming_observed s es j).trans (h _ (by omega))

theorem ErrAfter.congr {s t : State} {n : Nat} (h : ErrAfter s n) (ha : t.answers = s.answers) (hd : t.draws = s.draws) :
    ErrAfter t n :=
  ⟨h.1.congr ha hd, (upcoming_congr ha hd n).trans h.2⟩

theorem ErrAfter.observed {s : State} {es : List Event} {n : Nat} (h : ErrAfter s (writeCount es + n)) :
    ErrAfter (s.observed es) n :=
  ⟨h.1.observed, (upcoming_observed s es n).trans h.2⟩

/-- Either the next `n` writes are all ACKed, or there is a first one among them that is not. -/
theorem allAck_or_errAfter (s : State) (n : Nat) : AllAck s n ∨ ∃ j < n, ErrAfter s j := by
  induction n with
  | zero => exact .inl fun j hj => absurd hj (by omega)
  | succ n ih =>
    rcases ih with h | ⟨j, hj, he⟩
    · cases hn : s.upcoming n with
      | ack =>
        refine .inl fun j hj => ?_
        rcases Nat.lt_succ_iff_lt_or_eq.mp hj with h' | rfl
        · exact h j h'
        · exact hn
      | err => exact .inr ⟨n, by omega, h, hn⟩
    · exact .inr ⟨j, by omega, he⟩

/-! ## Events of a list of bus statements -/

/-- The event of a bus statement when the Transport ACKs it. -/
def BusAct.ackEvent (s : State) : BusAct → Event
  | .busWrite b => ackWrite s b
  | .wait t => .wait t

/-- The events of a list of bus statements when every write is ACKed. -/
def ackEvents (s : State) (k : List BusAct) : List Event :=
  k.map (BusAct.ackEvent s)

@[simp] theorem ackEvents_nil (s : State) : ackEvents s [] = [] := rfl

@[simp] theorem ackEvents_busWrite (s : State) (b : Byte) (k : List BusAct) :
    ackEvents s (.busWrite b :: k) = ackWrite s b :: ackEvents s k := rfl

@[simp] theorem ackEvents_wait (s : State) (t : Micros) (k : List BusAct) :
    ackEvents s (.wait t :: k) = .wait t :: ackEvents s k := rfl

@[simp] theorem ackEvents_append (s : State) (k l : List BusAct) : ackEvents s (k ++ l) = ackEvents s k ++ ackEvents s l :=
  List.map_append

theorem ackWrite_congr {s t : State} (h : t.cfg = s.cfg) (b : Byte) : ackWrite t b = ackWrite s b := by
  simp only [ackWrite, h]

theorem ackEvents_congr {s t : State} (h : t.cfg = s.cfg) (k : List BusAct) : ackEvents t k = ackEvents s k := by
  induction k with
  | nil => rfl
  | cons a k ih => cases a <;> simp [ih, ackWrite_congr h]

@[simp] theorem ackEvents_observed (s : State) (es : List Event) (k : List BusAct) :
    ackEvents (s.observed es) k = ackEvents s k := ackEvents_congr rfl k

@[simp] theorem ackEvents_afterWait (s : State) (t : Micros) (k : List BusAct) :
    ackEvents (s.afterWait t) k = ackEvents s k := ackEvents_congr rfl k

@[simp] theorem writeCount_nil : writeCount [] = 0 := rfl

@[simp] theorem writeCount_write (d : DeviceAddr) (b : Byte) (a : Answer) (es : List Event) :
    writeCount (.write d b a :: es) = writeCount es + 1 := by
  exact List.countP_cons_of_pos rfl

@[simp] theorem writeCount_ackWrite (s : State) (b : Byte) (es : List Event) :
    writeCount (ackWrite s b :: es) = writeCount es + 1 := by
  simp [ackWrite]

@[simp] theorem writeCount_wait (t : Micros) (es : List Event) : writeCount (.wait t :: es) = writeCount es := by
  simp [writeCount, Event.isWrite]

@[simp] theorem writeCount_append (es fs : List Event) : writeCount (es ++ fs) = writeCount es + writeCount fs :=
  List.countP_append

@[simp] theorem cutAtWrite_nil (n : Nat) : cutAtWrite n [] = [] := by cases n <;> rfl

@[simp] theorem cutAtWrite_wait (n : Nat) (t : Micros) (es : List Event) :
    cutAtWrite n (.wait t :: es) = .wait t :: cutAtWrite n es := by cases n <;> rfl

@[simp] theorem cutAtWrite_zero (d : DeviceAddr) (b : Byte) (a : Answer) (es : List Event) :
    cutAtWrite 0 (.write d b a :: es) = [.write d b .err] := rfl

@[simp] theorem cutAtWrite_succ (n : Nat) (d : DeviceAddr) (b : Byte) (a : Answer) (es : List Event) :
    cutAtWrite (n + 1) (.write d b a :: es) = .write d b a :: cutAtWrite n es := rfl

/-- A cut inside the first part leaves the second part out. -/
theorem cutAtWrite_append_left {n : Nat} {es : List Event} (fs : List Event) (h : n < writeCount es) :
    cutAtWrite n (es ++ fs) = cutAtWrite n es := by
  induction es generalizing n with
  | nil => simp at h
  | cons e es ih =>
    cases e with
    | wait t => simp at h; simp [ih h]
    | write d b a =>
      cases n with
      | zero => simp
      | succ n => simp at h; simp [ih h]

/-- A cut after the first part keeps all of it. -/
theorem cutAtWrite_append_right (n : Nat) (es fs : List Event) :
    cutAtWrite (writeCount es + n) (es ++ fs) = es ++ cutAtWrite n fs := by
  induction es with
  | nil => simp
  | cons e es ih =>
    cases e with
    | wait t => simp [ih]
    | write d b a =>
      have h : writeCount es + 1 + n = (writeCount es + n) + 1 := by omega
      simp [h, ih]

theorem writeCount_cutAtWrite {n : Nat} {es : List Event} (h : n < writeCount es) :
    writeCount (cutAtWrite n es) = n + 1 := by
  induction es generalizing n with
  | nil => simp at h
  | cons e es ih =>
    cases e with
    | wait t => simp at h; simp [ih h]
    | write d b a =>
      cases n with
      | zero => simp
      | succ n => simp at h; simp [ih h]

/-! ## Observed states -/

@[simp] theorem observed_nil (s : State) : s.observed [] = s := by
  simp [State.observed]

theorem observed_append (s : State) (es fs : List Event) : s.observed (es ++ fs) = (s.observed es).observed fs := by
  simp [State.observed, List.drop_drop, Nat.add_assoc]

theorem afterWait_eq_observed (s : State) (t : Micros) : s.afterWait t = s.observed [.wait t] := by
  simp [State.afterWait, State.observed]

theorem afterWrite_eq_observed (s : State) (b : Byte) (a : Answer) :
    s.afterWrite b a = s.observed [.write (deviceAddr s.cfg) b a] := by
  simp [State.afterWrite, State.observed]

/-! ## Running bus statements -/

@[simp] theorem Ran.andThen_done (s : State) (f : State → Ran) : (Ran.done s).andThen f = f s := rfl

@[simp] theorem Ran.andThen_raised (e : Status) (s : State) (f : State → Ran) :
    (Ran.raised e s).andThen f = .raised e s := rfl

theorem busWrite_ack {s : State} (h : s.upcoming 0 = .ack) (b : Byte) : busWrite b s = .done (s.observed [ackWrite s b]) := by
  simp only [busWrite, h, afterWrite_eq_observed, ackWrite]

theorem busWrite_err {s : State} (h : s.upcoming 0 = .err) (b : Byte) :
    busWrite b s = .raised .transportError (s.observed [.write (deviceAddr s.cfg) b .err]) := by
  simp only [busWrite, h, afterWrite_eq_observed]

/-- When every write is ACKed the statements run to their end and the events are exactly theirs. -/
theorem runBus_ack (k : List BusAct) {s : State} (h : AllAck s (writeCount (ackEvents s k))) :
    runBus k s = .done (s.observed (ackEvents s k)) := by
  induction k generalizing s with
  | nil => simp [runBus]
  | cons a k ih =>
    cases a with
    | wait t =>
      have h' : AllAck (s.afterWait t) (writeCount (ackEvents (s.afterWait t) k)) := by
        rw [ackEvents_afterWait]
        exact AllAck.congr (s := s) (by simpa using h) rfl rfl
      have hc : s.observed (.wait t :: ackEvents s k) = (s.observed [.wait t]).observed (ackEvents s k) :=
        observed_append s [.wait t] _
      rw [runBus, ih h', ackEvents_afterWait, ackEvents_wait, hc, afterWait_eq_observed]
    | busWrite b =>
      simp only [ackEvents_busWrite, writeCount_ackWrite] at h
      have hc : s.observed (ackWrite s b :: ackEvents s k) = (s.observed [ackWrite s b]).observed (ackEvents s k) :=
        observed_append s [ackWrite s b] _
      have h' : AllAck (s.observed [ackWrite s b]) (writeCount (ackEvents (s.observed [ackWrite s b]) k)) := by
        rw [ackEvents_observed]
        exact AllAck.observed (by simpa [Nat.add_comm] using h)
      rw [runBus, busWrite_ack (h 0 (by omega)), Ran.andThen_done, ih h', ackEvents_observed, ackEvents_busWrite, hc]

/-- When the `n`-th write is the first answered ERR, it is the last event and the run raises TransportError (R18, R91). -/
theorem runBus_err (k : List BusAct) {s : State} {n : Nat} (h : ErrAfter s n) (hn : n < writeCount (ackEvents s k)) :
    runBus k s = .raised .transportError (s.observed (cutAtWrite n (ackEvents s k))) := by
  induction k generalizing s n with
  | nil => simp at hn
  | cons a k ih =>
    cases a with
    | wait t =>
      have hn' : n < writeCount (ackEvents (s.afterWait t) k) := by
        rw [ackEvents_afterWait]; simpa using hn
      have hc : s.observed (.wait t :: cutAtWrite n (ackEvents s k))
          = (s.observed [.wait t]).observed (cutAtWrite n (ackEvents s k)) := observed_append s [.wait t] _
      rw [runBus, ih (s := s.afterWait t) (ErrAfter.congr h rfl rfl) hn', ackEvents_afterWait, ackEvents_wait, cutAtWrite_wait, hc,
        afterWait_eq_observed]
    | busWrite b =>
      cases n with
      | zero =>
        rw [runBus, busWrite_err h.2, Ran.andThen_raised, ackEvents_busWrite]
        rfl
      | succ n =>
        simp only [ackEvents_busWrite, writeCount_ackWrite] at hn
        have he : ErrAfter (s.observed [ackWrite s b]) n := ErrAfter.observed (by simpa [Nat.add_comm] using h)
        have hn' : n < writeCount (ackEvents (s.observed [ackWrite s b]) k) := by
          rw [ackEvents_observed]; omega
        have hc : s.observed (ackWrite s b :: cutAtWrite n (ackEvents s k))
            = (s.observed [ackWrite s b]).observed (cutAtWrite n (ackEvents s k)) := observed_append s [ackWrite s b] _
        rw [runBus, busWrite_ack (h.1 0 (by omega)), Ran.andThen_done, ih he hn', ackEvents_observed,
          ackEvents_busWrite]
        simp only [ackWrite] at hc ⊢
        rw [cutAtWrite_succ, hc]

/-- Everything a list of bus statements can do: it ends at its end or in TransportError, and what it did is to observe some events,
each write of them at the block's device (R37, R91). -/
theorem runBus_observed (k : List BusAct) (s : State) :
    ∃ es, (runBus k s = .done (s.observed es) ∧ es = ackEvents s k)
      ∨ (∃ n < writeCount (ackEvents s k), runBus k s = .raised .transportError (s.observed es)
          ∧ es = cutAtWrite n (ackEvents s k)) := by
  rcases allAck_or_errAfter s (writeCount (ackEvents s k)) with h | ⟨n, hn, he⟩
  · exact ⟨_, .inl ⟨runBus_ack k h, rfl⟩⟩
  · exact ⟨_, .inr ⟨n, hn, runBus_err k he hn, rfl⟩⟩

end Sys2Proof.Machine
end

