-- ==== Sys2Proof/Laws/Sequencer.lean ====
section
/-! SUPPORT. What an operation's list of statements does: its events and its state writes, computed apart from the Transport, and
the theorem that a run is those writes and events, whole when every write is ACKed and cut at the first ERR (00_scope.md R18). -/

namespace Sys2Proof.Machine

open Sys2Proof

/-! ## Primitives -/

/-- The bus statements of a primitive in a state. -/
def Prim.bus (p : Prim) (s : State) : List BusAct :=
  match p with
  | .wrInit n => wrInitBus s.bl n
  | .wrCmd c => wrCmdBus s.cfg s.bl c
  | .wrData d => wrDataBus s.cfg s.bl d
  | .setBl v => [.busWrite (backlightByte v)]
  | .wait t => [.wait t]

/-- The state a primitive puts on the bus from: T.SETBL writes its flag first (R89). -/
def Prim.entry (p : Prim) (s : State) : State :=
  match p with
  | .setBl v => s.writeBl v
  | .wrInit _ => s
  | .wrCmd _ => s
  | .wrData _ => s
  | .wait _ => s

/-- Every primitive is its entry write, if it has one, and then its bus statements. -/
theorem runPrim_eq (p : Prim) (s : State) : runPrim p s = runBus (p.bus s) (p.entry s) := by
  cases p <;> rfl

theorem pcf_or_enable (bl : Bool) (n : Nibble) (rs : Bool) : pcf bl n rs false ||| 0x04#8 = pcf bl n rs true := by
  revert bl n rs; decide

theorem wrInitBus_events (s : State) (n : Nibble) : ackEvents s (wrInitBus s.bl n) = nibbleEvents s n := by
  simp [wrInitBus, pulse, pcf_or_enable, nibbleEvents]

theorem pulsePair_events (s : State) (v : Byte) (rs : Bool) : ackEvents s (pulsePair s.bl v rs) = valueEvents s v rs := by
  simp [pulsePair, pulse, pcf_or_enable, valueEvents]

theorem wrCmdBus_events (s : State) (c : Byte) :
    ackEvents s (wrCmdBus s.cfg s.bl c)
      = if c.toNat ≤ 3 then slowCommandEvents s c else commandEvents s c := by
  simp only [wrCmdBus, ackEvents_append, pulsePair_events, postCommandWait, slowCommandEvents, commandEvents]
  split <;> simp

theorem wrDataBus_events (s : State) (d : Byte) : ackEvents s (wrDataBus s.cfg s.bl d) = dataEvents s d := by
  simp [wrDataBus, pulsePair_events, dataEvents]

@[simp] theorem writeCount_nibbleEvents (s : State) (n : Nibble) : writeCount (nibbleEvents s n) = 2 := by
  simp [nibbleEvents]

@[simp] theorem writeCount_valueEvents (s : State) (v : Byte) (rs : Bool) : writeCount (valueEvents s v rs) = 4 := by
  simp [valueEvents]

@[simp] theorem writeCount_commandEvents (s : State) (c : Byte) : writeCount (commandEvents s c) = 4 := by
  simp [commandEvents]

@[simp] theorem writeCount_slowCommandEvents (s : State) (c : Byte) : writeCount (slowCommandEvents s c) = 4 := by
  simp [slowCommandEvents]

@[simp] theorem writeCount_dataEvents (s : State) (v : Byte) : writeCount (dataEvents s v) = 4 := by
  simp [dataEvents]

/-! ## The plan of a list of statements -/

/-- The events of a statement when every write is ACKed. -/
def Act.events (s : State) : Act → List Event
  | .issue p => ackEvents s (p.bus s)
  | .setCursorX _ => []
  | .setCursorY _ => []
  | .setImpliedNl _ => []
  | .setD _ => []
  | .setC _ => []
  | .setB _ => []

/-- The state writes of a statement, without its events. -/
def Act.planned (a : Act) (s : State) : State :=
  match a with
  | .issue p => p.entry s
  | .setCursorX x => s.withCursorX x
  | .setCursorY y => s.withCursorY y
  | .setImpliedNl v => s.withImpliedNl v
  | .setD v => s.writeD v
  | .setC v => s.writeC v
  | .setB v => s.writeB v

/-- The state writes of a list of statements. -/
def planState : List Act → State → State
  | [], s => s
  | a :: k, s => planState k (a.planned s)

/-- The events of a list of statements when every write is ACKed. -/
def planEvents : List Act → State → List Event
  | [], _ => []
  | a :: k, s => a.events s ++ planEvents k (a.planned s)

/-- The state writes made before the `n`-th write (and by the primitive that makes it). -/
def planStateAt : Nat → List Act → State → State
  | _, [], s => s
  | n, a :: k, s =>
    if n < writeCount (a.events s) then a.planned s else planStateAt (n - writeCount (a.events s)) k (a.planned s)

theorem Act.planned_observed (a : Act) (s : State) (es : List Event) :
    a.planned (s.observed es) = (a.planned s).observed es := by
  cases a with
  | issue p => cases p <;> rfl
  | _ => rfl

theorem Act.events_congr {s t : State} (hc : t.cfg = s.cfg) (hf : t.flags = s.flags) (a : Act) : a.events t = a.events s := by
  cases a with
  | issue p =>
    have hbl : t.bl = s.bl := by simp only [State.bl, hf]
    have hp : p.bus t = p.bus s := by cases p <;> simp [Prim.bus, hc, hbl]
    simp only [Act.events, hp, ackEvents_congr hc]
  | _ => rfl

theorem Act.events_observed (a : Act) (s : State) (es : List Event) : a.events (s.observed es) = a.events s :=
  Act.events_congr rfl rfl a

theorem planState_observed (k : List Act) (s : State) (es : List Event) :
    planState k (s.observed es) = (planState k s).observed es := by
  induction k generalizing s with
  | nil => rfl
  | cons a k ih => simp [planState, Act.planned_observed, ih]

theorem planEvents_observed (k : List Act) (s : State) (es : List Event) : planEvents k (s.observed es) = planEvents k s := by
  induction k generalizing s with
  | nil => rfl
  | cons a k ih => simp [planEvents, Act.planned_observed, Act.events_observed, ih]

theorem planStateAt_observed (k : List Act) (s : State) (es : List Event) (n : Nat) :
    planStateAt n k (s.observed es) = (planStateAt n k s).observed es := by
  induction k generalizing s n with
  | nil => rfl
  | cons a k ih =>
    simp only [planStateAt, Act.planned_observed, Act.events_observed]
    split
    · rfl
    · exact ih _ _

/-- What the plan's writes never touch. -/
theorem Act.planned_frame (a : Act) (s : State) :
    (a.planned s).cfg = s.cfg ∧ (a.planned s).seq = s.seq ∧ (a.planned s).trace = s.trace
      ∧ (a.planned s).hostPort = s.hostPort ∧ (a.planned s).adapterPort = s.adapterPort
      ∧ (a.planned s).answers = s.answers ∧ (a.planned s).draws = s.draws ∧ (a.planned s).responses = s.responses := by
  cases a with
  | issue p => cases p <;> simp [Act.planned, Prim.entry]
  | _ => simp [Act.planned]

/-! ## One statement -/

theorem runAct_eq (a : Act) (s : State) :
    runAct a s = match a with
      | .issue p => runBus (p.bus s) (p.entry s)
      | _ => .done (a.planned s) := by
  cases a <;> simp [runAct, runPrim_eq, Act.planned, Act.write]

theorem Prim.ackEvents_entry (p : Prim) (s : State) (k : List BusAct) : ackEvents (p.entry s) k = ackEvents s k :=
  ackEvents_congr (by cases p <;> rfl) k

theorem runAct_ack (a : Act) {s : State} (h : AllAck s (writeCount (a.events s))) :
    runAct a s = .done ((a.planned s).observed (a.events s)) := by
  cases a with
  | issue p =>
    rw [runAct_eq]
    have hf := (Act.issue p).planned_frame s
    have h' : AllAck (p.entry s) (writeCount (ackEvents (p.entry s) (p.bus s))) := by
      rw [p.ackEvents_entry]
      exact AllAck.congr h hf.2.2.2.2.2.1 hf.2.2.2.2.2.2.1
    simp only [runBus_ack _ h', p.ackEvents_entry, Act.planned, Act.events]
  | _ => simp [runAct_eq, Act.events]

theorem runAct_err (a : Act) {s : State} {n : Nat} (h : ErrAfter s n) (hn : n < writeCount (a.events s)) :
    runAct a s = .raised .transportError ((a.planned s).observed (cutAtWrite n (a.events s))) := by
  cases a with
  | issue p =>
    rw [runAct_eq]
    have hf := (Act.issue p).planned_frame s
    have h' : ErrAfter (p.entry s) n := h.congr hf.2.2.2.2.2.1 hf.2.2.2.2.2.2.1
    have hn' : n < writeCount (ackEvents (p.entry s) (p.bus s)) := by
      rw [p.ackEvents_entry]; exact hn
    simp only [runBus_err _ h' hn', p.ackEvents_entry, Act.planned, Act.events]
  | _ => simp [Act.events] at hn

/-! ## Whole operations -/

/-- When every write is ACKed an operation makes all its writes and events. -/
theorem runActs_ack (k : List Act) {s : State} (h : AllAck s (writeCount (planEvents k s))) :
    runActs k s = .done ((planState k s).observed (planEvents k s)) := by
  induction k generalizing s with
  | nil => simp [runActs, planState, planEvents]
  | cons a k ih =>
    simp only [planEvents, writeCount_append] at h
    have hf := a.planned_frame s
    have h' : AllAck ((a.planned s).observed (a.events s))
        (writeCount (planEvents k ((a.planned s).observed (a.events s)))) := by
      rw [planEvents_observed]
      exact AllAck.observed (h.congr hf.2.2.2.2.2.1 hf.2.2.2.2.2.2.1)
    rw [runActs, runAct_ack a (h.mono (by omega)), Ran.andThen_done, ih h', planState_observed, planEvents_observed,
      planState, planEvents, observed_append]

/-- When the `n`-th write is the first answered ERR, the operation's events stop there and so do its writes (R18, R130). -/
theorem runActs_err (k : List Act) {s : State} {n : Nat} (h : ErrAfter s n) (hn : n < writeCount (planEvents k s)) :
    runActs k s = .raised .transportError ((planStateAt n k s).observed (cutAtWrite n (planEvents k s))) := by
  induction k generalizing s n with
  | nil => simp [planEvents] at hn
  | cons a k ih =>
    have hf := a.planned_frame s
    simp only [planEvents, writeCount_append] at hn
    by_cases hlt : n < writeCount (a.events s)
    · rw [runActs, runAct_err a h hlt, Ran.andThen_raised, planStateAt, if_pos hlt, planEvents,
        cutAtWrite_append_left _ hlt]
    · obtain ⟨m, rfl⟩ : ∃ m, n = writeCount (a.events s) + m := ⟨n - writeCount (a.events s), by omega⟩
      have he : ErrAfter ((a.planned s).observed (a.events s)) m :=
        ErrAfter.observed (h.congr hf.2.2.2.2.2.1 hf.2.2.2.2.2.2.1)
      have hm : m < writeCount (planEvents k ((a.planned s).observed (a.events s))) := by
        rw [planEvents_observed]; omega
      rw [runActs, runAct_ack a (h.1.mono (by omega)), Ran.andThen_done, ih he hm, planStateAt_observed,
        planEvents_observed, planStateAt, if_neg hlt, planEvents, cutAtWrite_append_right, observed_append]
      simp

/-! ## Requests -/

theorem perform_idle {s : State} (h : s.seq = .idle) (op : Instr) (k : List Act) :
    perform op k s = .next (runActs k (s.withSeq (.busy op k))).completed := by
  simp [perform, h, finish]

theorem perform_busy {s : State} {op' : Instr} {k' : List Act} (h : s.seq = .busy op' k') (op : Instr) (k : List Act) :
    perform op k s = .refused .portNotAccepting := by
  simp [perform, h]

theorem reject_idle {s : State} (h : s.seq = .idle) (e : Status) : reject e s = .next (s.complete e) := by
  simp [reject, h]

theorem reject_busy {s : State} {op' : Instr} {k' : List Act} (h : s.seq = .busy op' k') (e : Status) :
    reject e s = .refused .portNotAccepting := by
  simp [reject, h]

theorem planned_withSeq (a : Act) (s : State) (q : Seq) : a.planned (s.withSeq q) = (a.planned s).withSeq q := by
  cases a with
  | issue p => cases p <;> rfl
  | _ => rfl

theorem events_withSeq (a : Act) (s : State) (q : Seq) : a.events (s.withSeq q) = a.events s :=
  Act.events_congr rfl rfl a

theorem planState_withSeq (k : List Act) (s : State) (q : Seq) : planState k (s.withSeq q) = (planState k s).withSeq q := by
  induction k generalizing s with
  | nil => rfl
  | cons a k ih => simp [planState, planned_withSeq, ih]

theorem planEvents_withSeq (k : List Act) (s : State) (q : Seq) : planEvents k (s.withSeq q) = planEvents k s := by
  induction k generalizing s with
  | nil => rfl
  | cons a k ih => simp [planEvents, planned_withSeq, events_withSeq, ih]

theorem planStateAt_withSeq (n : Nat) (k : List Act) (s : State) (q : Seq) :
    planStateAt n k (s.withSeq q) = (planStateAt n k s).withSeq q := by
  induction k generalizing s n with
  | nil => rfl
  | cons a k ih =>
    simp only [planStateAt, planned_withSeq, events_withSeq]
    split
    · rfl
    · exact ih _ _

theorem complete_withSeq_observed (s : State) (q : Seq) (es : List Event) (st : Status) :
    ((s.withSeq q).observed es).complete st = (s.observed es).complete st := rfl

/-- A request taken at IDLE with every write ACKed: its plan, and status OK. -/
theorem perform_ack {s : State} (h : s.seq = .idle) (op : Instr) (k : List Act)
    (ha : AllAck s (writeCount (planEvents k s))) :
    perform op k s = .next (((planState k s).observed (planEvents k s)).complete .ok) := by
  have ha' : AllAck (s.withSeq (.busy op k)) (writeCount (planEvents k (s.withSeq (.busy op k)))) := by
    rw [planEvents_withSeq]; exact ha.congr rfl rfl
  rw [perform_idle h, runActs_ack k ha', planState_withSeq, planEvents_withSeq]
  rfl

/-- A request taken at IDLE with a first ERR at the `n`-th write: its plan up to there, and status TransportError (R130). -/
theorem perform_err {s : State} (h : s.seq = .idle) (op : Instr) (k : List Act) {n : Nat} (he : ErrAfter s n)
    (hn : n < writeCount (planEvents k s)) :
    perform op k s
      = .next (((planStateAt n k s).observed (cutAtWrite n (planEvents k s))).complete .transportError) := by
  have he' : ErrAfter (s.withSeq (.busy op k)) n := he.congr rfl rfl
  have hn' : n < writeCount (planEvents k (s.withSeq (.busy op k))) := by rw [planEvents_withSeq]; exact hn
  rw [perform_idle h, runActs_err k he' hn', planStateAt_withSeq, planEvents_withSeq]
  rfl

/-- Everything a request that is not turned away can do. -/
theorem perform_cases {s : State} (h : s.seq = .idle) (op : Instr) (k : List Act) :
    (AllAck s (writeCount (planEvents k s))
      ∧ perform op k s = .next (((planState k s).observed (planEvents k s)).complete .ok))
    ∨ (∃ n, n < writeCount (planEvents k s) ∧ ErrAfter s n
      ∧ perform op k s
        = .next (((planStateAt n k s).observed (cutAtWrite n (planEvents k s))).complete .transportError)) := by
  rcases allAck_or_errAfter s (writeCount (planEvents k s)) with ha | ⟨n, hn, he⟩
  · exact .inl ⟨ha, perform_ack h op k ha⟩
  · exact .inr ⟨n, hn, he, perform_err h op k he hn⟩

end Sys2Proof.Machine
end

