-- ==== Sys2Proof/Laws/Session.lean ====
section
/-! SUPPORT. What each Session operation's list of statements plans: its events when every write is ACKed, its state writes, and how
far the writes have come when a write is answered ERR. Later proofs cite these with the run theorems of Laws/Sequencer.lean. -/

namespace Sys2Proof.Machine

open Sys2Proof

/-! ## Events depend on the configuration and the backlight alone -/

theorem valueEvents_congr {s t : State} (hc : t.cfg = s.cfg) (hb : t.bl = s.bl) (v : Byte) (rs : Bool) :
    valueEvents t v rs = valueEvents s v rs := by
  simp only [valueEvents, ackWrite, hc, hb]

theorem commandEvents_congr {s t : State} (hc : t.cfg = s.cfg) (hb : t.bl = s.bl) (v : Byte) :
    commandEvents t v = commandEvents s v := by
  simp only [commandEvents, hc, valueEvents_congr hc hb]

theorem slowCommandEvents_congr {s t : State} (hc : t.cfg = s.cfg) (hb : t.bl = s.bl) (v : Byte) :
    slowCommandEvents t v = slowCommandEvents s v := by
  simp only [slowCommandEvents, valueEvents_congr hc hb]

theorem dataEvents_congr {s t : State} (hc : t.cfg = s.cfg) (hb : t.bl = s.bl) (v : Byte) :
    dataEvents t v = dataEvents s v := by
  simp only [dataEvents, hc, valueEvents_congr hc hb]

theorem nibbleEvents_congr {s t : State} (hc : t.cfg = s.cfg) (hb : t.bl = s.bl) (n : Nibble) :
    nibbleEvents t n = nibbleEvents s n := by
  simp only [nibbleEvents, ackWrite, hc, hb]

@[simp] theorem commandEvents_withCursorX (s : State) (x : BitVec 8) (v : Byte) :
    commandEvents (s.withCursorX x) v = commandEvents s v :=
  commandEvents_congr (s := s) (t := s.withCursorX x) rfl rfl v

@[simp] theorem commandEvents_withCursorY (s : State) (y : BitVec 2) (v : Byte) :
    commandEvents (s.withCursorY y) v = commandEvents s v :=
  commandEvents_congr (s := s) (t := s.withCursorY y) rfl rfl v

@[simp] theorem commandEvents_withImpliedNl (s : State) (w : Bool) (v : Byte) :
    commandEvents (s.withImpliedNl w) v = commandEvents s v :=
  commandEvents_congr (s := s) (t := s.withImpliedNl w) rfl rfl v

@[simp] theorem commandEvents_writeD (s : State) (w : Bool) (v : Byte) :
    commandEvents (s.writeD w) v = commandEvents s v :=
  commandEvents_congr (s := s) (t := s.writeD w) rfl (s.writeD_bl w) v

@[simp] theorem commandEvents_writeC (s : State) (w : Bool) (v : Byte) :
    commandEvents (s.writeC w) v = commandEvents s v :=
  commandEvents_congr (s := s) (t := s.writeC w) rfl (s.writeC_bl w) v

@[simp] theorem commandEvents_writeB (s : State) (w : Bool) (v : Byte) :
    commandEvents (s.writeB w) v = commandEvents s v :=
  commandEvents_congr (s := s) (t := s.writeB w) rfl (s.writeB_bl w) v

@[simp] theorem commandEvents_observed (s : State) (es : List Event) (v : Byte) :
    commandEvents (s.observed es) v = commandEvents s v :=
  commandEvents_congr (s := s) (t := s.observed es) rfl rfl v

@[simp] theorem commandEvents_complete (s : State) (st : Status) (v : Byte) :
    commandEvents (s.complete st) v = commandEvents s v :=
  commandEvents_congr (s := s) (t := s.complete st) rfl rfl v

@[simp] theorem slowCommandEvents_withCursorX (s : State) (x : BitVec 8) (v : Byte) :
    slowCommandEvents (s.withCursorX x) v = slowCommandEvents s v :=
  slowCommandEvents_congr (s := s) (t := s.withCursorX x) rfl rfl v

@[simp] theorem slowCommandEvents_withCursorY (s : State) (y : BitVec 2) (v : Byte) :
    slowCommandEvents (s.withCursorY y) v = slowCommandEvents s v :=
  slowCommandEvents_congr (s := s) (t := s.withCursorY y) rfl rfl v

@[simp] theorem slowCommandEvents_withImpliedNl (s : State) (w : Bool) (v : Byte) :
    slowCommandEvents (s.withImpliedNl w) v = slowCommandEvents s v :=
  slowCommandEvents_congr (s := s) (t := s.withImpliedNl w) rfl rfl v

@[simp] theorem slowCommandEvents_writeD (s : State) (w : Bool) (v : Byte) :
    slowCommandEvents (s.writeD w) v = slowCommandEvents s v :=
  slowCommandEvents_congr (s := s) (t := s.writeD w) rfl (s.writeD_bl w) v

@[simp] theorem slowCommandEvents_writeC (s : State) (w : Bool) (v : Byte) :
    slowCommandEvents (s.writeC w) v = slowCommandEvents s v :=
  slowCommandEvents_congr (s := s) (t := s.writeC w) rfl (s.writeC_bl w) v

@[simp] theorem slowCommandEvents_writeB (s : State) (w : Bool) (v : Byte) :
    slowCommandEvents (s.writeB w) v = slowCommandEvents s v :=
  slowCommandEvents_congr (s := s) (t := s.writeB w) rfl (s.writeB_bl w) v

@[simp] theorem slowCommandEvents_observed (s : State) (es : List Event) (v : Byte) :
    slowCommandEvents (s.observed es) v = slowCommandEvents s v :=
  slowCommandEvents_congr (s := s) (t := s.observed es) rfl rfl v

@[simp] theorem slowCommandEvents_complete (s : State) (st : Status) (v : Byte) :
    slowCommandEvents (s.complete st) v = slowCommandEvents s v :=
  slowCommandEvents_congr (s := s) (t := s.complete st) rfl rfl v

@[simp] theorem dataEvents_withCursorX (s : State) (x : BitVec 8) (v : Byte) :
    dataEvents (s.withCursorX x) v = dataEvents s v :=
  dataEvents_congr (s := s) (t := s.withCursorX x) rfl rfl v

@[simp] theorem dataEvents_withCursorY (s : State) (y : BitVec 2) (v : Byte) :
    dataEvents (s.withCursorY y) v = dataEvents s v :=
  dataEvents_congr (s := s) (t := s.withCursorY y) rfl rfl v

@[simp] theorem dataEvents_withImpliedNl (s : State) (w : Bool) (v : Byte) :
    dataEvents (s.withImpliedNl w) v = dataEvents s v :=
  dataEvents_congr (s := s) (t := s.withImpliedNl w) rfl rfl v

@[simp] theorem dataEvents_writeD (s : State) (w : Bool) (v : Byte) :
    dataEvents (s.writeD w) v = dataEvents s v :=
  dataEvents_congr (s := s) (t := s.writeD w) rfl (s.writeD_bl w) v

@[simp] theorem dataEvents_writeC (s : State) (w : Bool) (v : Byte) :
    dataEvents (s.writeC w) v = dataEvents s v :=
  dataEvents_congr (s := s) (t := s.writeC w) rfl (s.writeC_bl w) v

@[simp] theorem dataEvents_writeB (s : State) (w : Bool) (v : Byte) :
    dataEvents (s.writeB w) v = dataEvents s v :=
  dataEvents_congr (s := s) (t := s.writeB w) rfl (s.writeB_bl w) v

@[simp] theorem dataEvents_observed (s : State) (es : List Event) (v : Byte) :
    dataEvents (s.observed es) v = dataEvents s v :=
  dataEvents_congr (s := s) (t := s.observed es) rfl rfl v

@[simp] theorem dataEvents_complete (s : State) (st : Status) (v : Byte) :
    dataEvents (s.complete st) v = dataEvents s v :=
  dataEvents_congr (s := s) (t := s.complete st) rfl rfl v

/-! ## Events of one statement -/

theorem events_wrCmd (s : State) (c : Byte) :
    (Act.issue (.wrCmd c)).events s = if c.toNat ≤ 3 then slowCommandEvents s c else commandEvents s c :=
  wrCmdBus_events s c

@[simp] theorem events_wrData (s : State) (v : Byte) : (Act.issue (.wrData v)).events s = dataEvents s v :=
  wrDataBus_events s v

@[simp] theorem events_wrInit (s : State) (n : Nibble) : (Act.issue (.wrInit n)).events s = nibbleEvents s n :=
  wrInitBus_events s n

@[simp] theorem events_setBl (s : State) (v : Bool) : (Act.issue (.setBl v)).events s = [ackWrite s (backlightByte v)] := rfl

@[simp] theorem events_wait (s : State) (t : Micros) : (Act.issue (.wait t)).events s = [.wait t] := rfl

@[simp] theorem events_clearDisplay (s : State) : (Act.issue (.wrCmd clearDisplay)).events s = slowCommandEvents s 0x01 := by
  rw [events_wrCmd]; rfl

@[simp] theorem events_entryMode (s : State) : (Act.issue (.wrCmd entryMode)).events s = commandEvents s 0x06 := by
  rw [events_wrCmd]; rfl

theorem funcset_eq (c : Configuration) : funcset c = if c.rows > 1 then 0x28 else 0x20 := by
  unfold funcset
  split <;> rename_i h <;> simp only [h, decide_true, decide_false] <;> rfl

@[simp] theorem events_funcset (s : State) (c : Configuration) :
    (Act.issue (.wrCmd (funcset c))).events s = commandEvents s (if c.rows > 1 then 0x28 else 0x20) := by
  rw [events_wrCmd, funcset_eq]
  split <;> rfl

theorem dctl_eq (s : State) : dctl s = BitVec.ofNat 8 (0x08 + 4 * s.d.toNat + 2 * s.c.toNat + s.b.toNat) := by
  unfold dctl
  generalize s.d = d
  generalize s.c = c
  generalize s.b = b
  revert d c b
  decide

@[simp] theorem events_issueDctl (s t : State) :
    (issueDctl t).events s = commandEvents s (BitVec.ofNat 8 (0x08 + 4 * t.d.toNat + 2 * t.c.toNat + t.b.toNat)) := by
  have h : ∀ d c b : Bool, ¬ (BitVec.ofNat 8 (0x08 + 4 * d.toNat + 2 * c.toNat + b.toNat)).toNat ≤ 3 := by decide
  rw [issueDctl, events_wrCmd, dctl_eq, if_neg (h _ _ _)]

@[simp] theorem events_syncAddr (s : State) (c : Configuration) (x y : Nat) :
    (syncAddr c x y).events s = commandEvents s (setDdram (ddramAddr c x y)) := by
  have h : ∀ a : DdramAddr, ¬ (setDdram a).toNat ≤ 3 := by decide
  rw [syncAddr, events_wrCmd, if_neg (h _)]

@[simp] theorem events_setCgram (s : State) (slot : BitVec 8) :
    (Act.issue (.wrCmd (setCgram slot))).events s = commandEvents s (setCgram slot) := by
  have h : ∀ b : BitVec 8, ¬ (setCgram b).toNat ≤ 3 := by decide
  rw [events_wrCmd, if_neg (h _)]

@[simp] theorem planned_wrCmd (s : State) (c : Byte) : (Act.issue (.wrCmd c)).planned s = s := rfl
@[simp] theorem planned_wrData (s : State) (v : Byte) : (Act.issue (.wrData v)).planned s = s := rfl
@[simp] theorem planned_wrInit (s : State) (n : Nibble) : (Act.issue (.wrInit n)).planned s = s := rfl
@[simp] theorem planned_wait (s : State) (t : Micros) : (Act.issue (.wait t)).planned s = s := rfl
@[simp] theorem planned_setBl (s : State) (v : Bool) : (Act.issue (.setBl v)).planned s = s.writeBl v := rfl
@[simp] theorem planned_syncAddr (s : State) (c : Configuration) (x y : Nat) : (syncAddr c x y).planned s = s := rfl
@[simp] theorem planned_issueDctl (s t : State) : (issueDctl t).planned s = s := rfl
@[simp] theorem planned_setCursorX (s : State) (x : BitVec 8) : (Act.setCursorX x).planned s = s.withCursorX x := rfl
@[simp] theorem planned_setCursorY (s : State) (y : BitVec 2) : (Act.setCursorY y).planned s = s.withCursorY y := rfl
@[simp] theorem planned_setImpliedNl (s : State) (v : Bool) : (Act.setImpliedNl v).planned s = s.withImpliedNl v := rfl
@[simp] theorem planned_setD (s : State) (v : Bool) : (Act.setD v).planned s = s.writeD v := rfl
@[simp] theorem planned_setC (s : State) (v : Bool) : (Act.setC v).planned s = s.writeC v := rfl
@[simp] theorem planned_setB (s : State) (v : Bool) : (Act.setB v).planned s = s.writeB v := rfl
@[simp] theorem events_setCursorX (s : State) (x : BitVec 8) : (Act.setCursorX x).events s = [] := rfl
@[simp] theorem events_setCursorY (s : State) (y : BitVec 2) : (Act.setCursorY y).events s = [] := rfl
@[simp] theorem events_setImpliedNl (s : State) (v : Bool) : (Act.setImpliedNl v).events s = [] := rfl
@[simp] theorem events_setD (s : State) (v : Bool) : (Act.setD v).events s = [] := rfl
@[simp] theorem events_setC (s : State) (v : Bool) : (Act.setC v).events s = [] := rfl
@[simp] theorem events_setB (s : State) (v : Bool) : (Act.setB v).events s = [] := rfl

/-! ## Plans of concatenated lists -/

theorem planState_append (k l : List Act) (s : State) : planState (k ++ l) s = planState l (planState k s) := by
  induction k generalizing s with
  | nil => rfl
  | cons a k ih => exact ih _

theorem planEvents_append (k l : List Act) (s : State) :
    planEvents (k ++ l) s = planEvents k s ++ planEvents l (planState k s) := by
  induction k generalizing s with
  | nil => rfl
  | cons a k ih => simp only [List.cons_append, planEvents, planState, ih, List.append_assoc]

/-- An ERR in the first list leaves the second list's writes out. -/
theorem planStateAt_append_left {n : Nat} {k : List Act} (l : List Act) {s : State} (h : n < writeCount (planEvents k s)) :
    planStateAt n (k ++ l) s = planStateAt n k s := by
  induction k generalizing s n with
  | nil => simp [planEvents] at h
  | cons a k ih =>
    simp only [planEvents, writeCount_append] at h
    simp only [List.cons_append, planStateAt]
    split
    · rfl
    · exact ih (by omega)

/-- An ERR after the first list finds all of its writes done. -/
theorem planStateAt_append_right {n : Nat} {k : List Act} (l : List Act) {s : State} (h : writeCount (planEvents k s) ≤ n) :
    planStateAt n (k ++ l) s = planStateAt (n - writeCount (planEvents k s)) l (planState k s) := by
  induction k generalizing s n with
  | nil => rfl
  | cons a k ih =>
    simp only [planEvents, writeCount_append] at h
    simp only [List.cons_append, planStateAt, planEvents, planState, writeCount_append]
    rw [if_neg (by omega), ih (by omega), Nat.sub_sub]

/-- A list that only issues transport words other than T.SETBL writes no state. -/
theorem planState_wrData (bs : List Byte) (s : State) : planState (bs.map fun b => .issue (.wrData b)) s = s := by
  induction bs with
  | nil => rfl
  | cons b bs ih => exact ih

theorem planEvents_wrData (bs : List Byte) (s : State) :
    planEvents (bs.map fun b => .issue (.wrData b)) s = bs.flatMap (dataEvents s) := by
  induction bs with
  | nil => rfl
  | cons b bs ih => simp [planEvents, ih]

/-! ## The operations -/

theorem planState_homeCursor (s : State) :
    planState homeCursor s = ((s.withCursorX 0).withCursorY 0).withImpliedNl false := rfl

theorem planEvents_homeCursor (s : State) : planEvents homeCursor s = [] := rfl

theorem planEvents_clear (s : State) : planEvents clearActs s = slowCommandEvents s 0x01 := by
  simp [clearActs, planEvents, planEvents_homeCursor]

theorem planState_clear (s : State) : planState clearActs s = ((s.withCursorX 0).withCursorY 0).withImpliedNl false := rfl

/-- INIT's events (R99). -/
theorem planEvents_init (s : State) :
    planEvents (initActs s) s
      = [ackWrite s (backlightByte s.bl), .wait 20000#20]
        ++ nibbleEvents s 0x3 ++ [.wait 5000#20] ++ nibbleEvents s 0x3 ++ [.wait 1000#20]
        ++ nibbleEvents s 0x3 ++ [.wait 1000#20]
        ++ (if s.cfg.initSwitchNibble then nibbleEvents s 0x2 ++ [.wait 1000#20] else [])
        ++ commandEvents s (if s.cfg.rows > 1 then 0x28 else 0x20) ++ commandEvents s 0x06
        ++ commandEvents s (BitVec.ofNat 8 (0x0C + 2 * s.c.toNat + s.b.toNat)) ++ slowCommandEvents s 0x01 := by
  have hb := s.writeBl_self
  unfold initActs initHandshake
  cases s.cfg.initSwitchNibble <;>
    simp [planEvents, hb, planEvents_homeCursor, resetNibble, switchNibble]

/-- INIT's state writes (R99). -/
theorem planState_init (s : State) :
    planState (initActs s) s = (((s.writeD true).withCursorX 0).withCursorY 0).withImpliedNl false := by
  have hb := s.writeBl_self
  unfold initActs initHandshake
  cases s.cfg.initSwitchNibble <;> simp [planState, hb, planState_homeCursor]

theorem planEvents_moveto (s : State) (col row : BitVec 8) :
    planEvents (movetoActs s.cfg col row) s = commandEvents s (setDdram (ddramAddr s.cfg col.toNat row.toNat)) := by
  simp only [movetoActs, planEvents, planned_setCursorX, planned_setCursorY, events_setCursorX, events_setCursorY,
    events_syncAddr, List.nil_append, List.append_nil]
  exact commandEvents_congr rfl rfl _

theorem planState_moveto (s : State) (col row : BitVec 8) :
    planState (movetoActs s.cfg col row) s = (s.withCursorX col).withCursorY (row.setWidth 2) := rfl

/-- Where steps 3 to 5 of PUTCHAR leave the state (R102, R104). -/
def wrapped (s : State) (x y : Nat) (isLineFeed : Bool) : State :=
  let s₁ := if x ≥ s.cfg.cols then ((s.withCursorX 0).withCursorY (BitVec.ofNat 2 (y + 1))).withImpliedNl (!isLineFeed) else s
  if stepRow s.cfg x y ≥ s.cfg.rows then s₁.withCursorY 0 else s₁

theorem planState_wrap (s : State) (x y : Nat) (isLineFeed : Bool) :
    planState (wrapActs s.cfg x y isLineFeed) s = wrapped s x y isLineFeed := by
  unfold wrapActs wrapped
  split <;> split <;> rfl

theorem planEvents_wrap (s t : State) (hc : t.cfg = s.cfg) (hb : t.bl = s.bl) (x y : Nat) (isLineFeed : Bool) :
    planEvents (wrapActs s.cfg x y isLineFeed) t
      = commandEvents s (setDdram (ddramAddr s.cfg (wrapColumn s.cfg x) (wrapRow s.cfg x y))) := by
  unfold wrapActs
  split <;> split <;>
    simp only [List.cons_append, List.nil_append, planEvents, events_setCursorX, events_setCursorY, events_setImpliedNl,
      events_syncAddr, List.append_nil] <;>
    exact commandEvents_congr hc hb _

theorem planEvents_character (s : State) (g : Byte) :
    planEvents (characterActs g s) s
      = dataEvents s g ++ commandEvents s (setDdram (ddramAddr s.cfg (wrapColumn s.cfg (s.cursorX.toNat + 1))
          (wrapRow s.cfg (s.cursorX.toNat + 1) s.cursorY.toNat))) := by
  simp only [characterActs, planEvents, events_wrData, planned_wrData, events_setCursorX, planned_setCursorX,
    List.nil_append]
  rw [planEvents_wrap s (s.withCursorX (BitVec.ofNat 8 (s.cursorX.toNat + 1))) rfl rfl]

theorem planEvents_lineFeed (s : State) :
    planEvents (lineFeedActs s) s
      = commandEvents s (setDdram (ddramAddr s.cfg (wrapColumn s.cfg s.cfg.cols)
          (wrapRow s.cfg s.cfg.cols s.cursorY.toNat))) := by
  simp only [lineFeedActs, planEvents, events_setCursorX, planned_setCursorX, List.nil_append]
  rw [planEvents_wrap s (s.withCursorX (BitVec.ofNat 8 s.cfg.cols)) rfl rfl]

theorem planState_character (s : State) (g : Byte) :
    planState (characterActs g s) s
      = wrapped (s.withCursorX (BitVec.ofNat 8 (s.cursorX.toNat + 1))) (s.cursorX.toNat + 1) s.cursorY.toNat false :=
  planState_wrap (s.withCursorX (BitVec.ofNat 8 (s.cursorX.toNat + 1))) _ _ _

theorem planState_lineFeed (s : State) :
    planState (lineFeedActs s) s = wrapped (s.withCursorX (BitVec.ofNat 8 s.cfg.cols)) s.cfg.cols s.cursorY.toNat true :=
  planState_wrap (s.withCursorX (BitVec.ofNat 8 s.cfg.cols)) _ _ _

theorem planEvents_glyph (s : State) (slot : BitVec 8) (p : Vector Byte 8) :
    planEvents (glyphActs slot p s) s
      = commandEvents s (setCgram slot) ++ p.toList.flatMap (dataEvents s)
        ++ commandEvents s (setDdram (ddramAddr s.cfg s.cursorX.toNat s.cursorY.toNat)) := by
  simp only [glyphActs, planEvents_append, planEvents, planState, events_setCgram, planned_wrCmd, planEvents_wrData,
    planState_wrData, events_syncAddr, List.append_nil]

theorem planState_glyph (s : State) (slot : BitVec 8) (p : Vector Byte 8) : planState (glyphActs slot p s) s = s := by
  simp only [glyphActs, planState_append, planState, planned_wrCmd, planState_wrData, planned_syncAddr]

end Sys2Proof.Machine
end

