-- ==== Sys2Proof/Laws/Exec.lean ====
section
/-! SUPPORT. Everything an instruction can do, said once: a host request is rejected, or runs its list of statements to the end or to
the first ERR; a transport word runs its primitive. And everything one step can do. -/

namespace Sys2Proof.Machine

open Sys2Proof

/-! ## What every statement of a list keeps, the list keeps -/

theorem planState_induct {P : State → Prop} {k : List Act} {s : State} (hs : P s)
    (hk : ∀ a ∈ k, ∀ t, P t → P (a.planned t)) : P (planState k s) := by
  induction k generalizing s with
  | nil => exact hs
  | cons a k ih =>
    exact ih (hk a List.mem_cons_self s hs) fun b hb => hk b (List.mem_cons_of_mem a hb)

theorem planStateAt_induct {P : State → Prop} {k : List Act} {s : State} (hs : P s)
    (hk : ∀ a ∈ k, ∀ t, P t → P (a.planned t)) (n : Nat) : P (planStateAt n k s) := by
  induction k generalizing s n with
  | nil => exact hs
  | cons a k ih =>
    simp only [planStateAt]
    split
    · exact hk a List.mem_cons_self s hs
    · exact ih (hk a List.mem_cons_self s hs) (fun b hb => hk b (List.mem_cons_of_mem a hb)) _

/-! ## Host requests -/

/-- What a host request does at IDLE: the status it is rejected with, or its list of statements (41_session.md). -/
def requestPlan (s : State) : Instr → Except Status (List Act)
  | .init => .ok (initActs s)
  | .clear => .ok clearActs
  | .putchar cp =>
    if cp = lineFeed then .ok (if s.impliedNl then [.setImpliedNl false] else lineFeedActs s)
    else
      match charMap s.cfg cp with
      | none => .error .invalidCharacter
      | some g => .ok (characterActs g s)
  | .moveto col row =>
    if col.toNat ≥ s.cfg.cols ∨ row.toNat ≥ s.cfg.rows then .error .invalidPosition else .ok (movetoActs s.cfg col row)
  | .setbl v => .ok [.issue (.setBl v)]
  | .setdisp v => .ok [.setD v, issueDctl (s.writeD v)]
  | .setcursor v => .ok [.setC v, issueDctl (s.writeC v)]
  | .setblink v => .ok [.setB v, issueDctl (s.writeB v)]
  | .glyph slot p => if slot.toNat > 7 then .error .invalidGlyphSlot else .ok (glyphActs slot p s)
  | .tWrinit _ => .ok []
  | .tWrcmd _ => .ok []
  | .tWrdata _ => .ok []
  | .tSetbl _ => .ok []
  | .tWait _ => .ok []

theorem exec_request {i : Instr} (hi : isHostRequest i = true) (s : State) :
    exec i s = match requestPlan s i with
      | .error e => reject e s
      | .ok k => perform i k s := by
  cases i with
  | init => rfl
  | clear => rfl
  | putchar cp =>
    simp only [exec, execPutchar, requestPlan]
    by_cases hlf : cp = lineFeed
    · simp only [hlf, if_true]
      cases s.impliedNl <;> rfl
    · simp only [hlf, if_false]
      cases charMap s.cfg cp <;> rfl
  | moveto col row =>
    simp only [exec, execMoveto, requestPlan]
    split <;> rfl
  | setbl v => rfl
  | setdisp v => rfl
  | setcursor v => rfl
  | setblink v => rfl
  | glyph slot p =>
    simp only [exec, execGlyph, requestPlan]
    split <;> rfl
  | tWrinit n => simp [isHostRequest] at hi
  | tWrcmd c => simp [isHostRequest] at hi
  | tWrdata d => simp [isHostRequest] at hi
  | tSetbl v => simp [isHostRequest] at hi
  | tWait t => simp [isHostRequest] at hi

/-- While an operation is in progress a request is refused (70_reset_and_hazards.md R154; log 9). -/
theorem exec_request_busy {i : Instr} (hi : isHostRequest i = true) {s : State} {op : Instr} {k : List Act}
    (h : s.seq = .busy op k) : exec i s = .refused .portNotAccepting := by
  rw [exec_request hi]
  cases requestPlan s i with
  | error e => exact reject_busy h e
  | ok l => exact perform_busy h i l

/-- Everything a host request can do, given that it answers a next state: it was taken at IDLE, and it was rejected, or it ran to
its end with every write ACKed, or it ran up to its first ERR. -/
theorem exec_request_cases {i : Instr} (hi : isHostRequest i = true) {s t : State} (h : exec i s = .next t) :
    s.seq = .idle ∧
      ((∃ e, requestPlan s i = .error e ∧ t = s.complete e)
      ∨ (∃ k, requestPlan s i = .ok k ∧ AllAck s (writeCount (planEvents k s))
          ∧ t = ((planState k s).observed (planEvents k s)).complete .ok)
      ∨ (∃ k n, requestPlan s i = .ok k ∧ n < writeCount (planEvents k s) ∧ ErrAfter s n
          ∧ t = ((planStateAt n k s).observed (cutAtWrite n (planEvents k s))).complete .transportError)) := by
  cases hq : s.seq with
  | busy op k => rw [exec_request_busy hi hq] at h; cases h
  | idle =>
    refine ⟨rfl, ?_⟩
    rw [exec_request hi] at h
    cases hp : requestPlan s i with
    | error e =>
      simp only [hp, reject_idle hq] at h
      cases h
      exact .inl ⟨e, rfl, rfl⟩
    | ok k =>
      simp only [hp] at h
      rcases perform_cases hq i k with ⟨ha, hr⟩ | ⟨n, hn, he, hr⟩
      · rw [hr] at h; cases h
        exact .inr (.inl ⟨k, rfl, ha, rfl⟩)
      · rw [hr] at h; cases h
        exact .inr (.inr ⟨k, n, rfl, hn, he, rfl⟩)

/-- At IDLE a host request always answers a next state. -/
theorem exec_request_next {i : Instr} (hi : isHostRequest i = true) {s : State} (h : s.seq = .idle) :
    ∃ t, exec i s = .next t := by
  rw [exec_request hi]
  cases requestPlan s i with
  | error e => exact ⟨_, reject_idle h e⟩
  | ok k => exact ⟨_, perform_idle h i k⟩

/-! ## Transport words -/

theorem exists_prim {i : Instr} (hi : isHostRequest i = false) : ∃ p : Prim, i = p.toInstr := by
  cases i with
  | tWrinit n => exact ⟨.wrInit n, rfl⟩
  | tWrcmd c => exact ⟨.wrCmd c, rfl⟩
  | tWrdata d => exact ⟨.wrData d, rfl⟩
  | tSetbl v => exact ⟨.setBl v, rfl⟩
  | tWait t => exact ⟨.wait t, rfl⟩
  | _ => simp [isHostRequest] at hi

theorem exec_prim (p : Prim) (s : State) : exec p.toInstr s = .next (runPrim p s).transportState := by
  cases p <;> rfl

/-- Everything a transport word can do. -/
theorem exec_prim_cases (p : Prim) (s : State) :
    (AllAck s (writeCount ((Act.issue p).events s))
      ∧ exec p.toInstr s = .next ((p.entry s).observed ((Act.issue p).events s)))
    ∨ (∃ n, n < writeCount ((Act.issue p).events s) ∧ ErrAfter s n
      ∧ exec p.toInstr s = .next ((p.entry s).observed (cutAtWrite n ((Act.issue p).events s))).primitiveFailed) := by
  rcases allAck_or_errAfter s (writeCount ((Act.issue p).events s)) with ha | ⟨n, hn, he⟩
  · refine .inl ⟨ha, ?_⟩
    rw [exec_prim, show runPrim p s = runAct (.issue p) s from rfl, runAct_ack _ ha]
    rfl
  · refine .inr ⟨n, hn, he, ?_⟩
    rw [exec_prim, show runPrim p s = runAct (.issue p) s from rfl, runAct_err _ he hn]
    simp only [Ran.transportState, State.primitiveFailed, Act.planned]
    all_goals (split <;> simp_all)

/-! ## One statement of an operation in progress -/

/-- A state write of the Session touches no field but its own. -/
theorem write_frame (a : Act) (s : State) :
    (a.write s).cfg = s.cfg ∧ (a.write s).seq = s.seq ∧ (a.write s).trace = s.trace ∧ (a.write s).bl = s.bl
      ∧ (a.write s).hostPort = s.hostPort ∧ (a.write s).adapterPort = s.adapterPort
      ∧ (a.write s).answers = s.answers ∧ (a.write s).draws = s.draws ∧ (a.write s).responses = s.responses := by
  cases a <;> simp [Act.write]

/-- What moving an operation on by one statement never touches. -/
theorem advance_frame (op : Instr) (k : List Act) (s : State) :
    (advance op k s).cfg = s.cfg ∧ (advance op k s).trace = s.trace ∧ (advance op k s).bl = s.bl
      ∧ (advance op k s).hostPort = s.hostPort ∧ (advance op k s).answers = s.answers
      ∧ (advance op k s).draws = s.draws := by
  match k with
  | [] => exact ⟨rfl, rfl, rfl, rfl, rfl, rfl⟩
  | .issue p :: rest => exact ⟨rfl, rfl, rfl, rfl, rfl, rfl⟩
  | .setCursorX x :: rest => exact ⟨rfl, rfl, rfl, rfl, rfl, rfl⟩
  | .setCursorY y :: rest => exact ⟨rfl, rfl, rfl, rfl, rfl, rfl⟩
  | .setImpliedNl v :: rest => exact ⟨rfl, rfl, rfl, rfl, rfl, rfl⟩
  | .setD v :: rest => exact ⟨rfl, rfl, s.writeD_bl v, rfl, rfl, rfl⟩
  | .setC v :: rest => exact ⟨rfl, rfl, s.writeC_bl v, rfl, rfl, rfl⟩
  | .setB v :: rest => exact ⟨rfl, rfl, s.writeB_bl v, rfl, rfl, rfl⟩

end Sys2Proof.Machine
end

