-- ==== Sys2Proof/Laws/PerInstr.lean ====
section
/-! SUPPORT. Per instruction: its encoded word lies in its own row of the opcode table and has the number of words its opcode says
(30_encoding.md R59, R69, R71, R72). -/

namespace Sys2Proof.Laws.EncodingFitsRow

open Sys2Proof

/-- The mnemonic of an instruction's row. -/
def mnemonic : Instr → String
  | .init => "INIT"
  | .clear => "CLEAR"
  | .putchar _ => "PUTCHAR"
  | .moveto _ _ => "MOVETO"
  | .setbl _ => "SETBL"
  | .setdisp _ => "SETDISP"
  | .setcursor _ => "SETCURSOR"
  | .setblink _ => "SETBLINK"
  | .glyph _ _ => "GLYPH"
  | .tWrinit _ => "T.WRINIT"
  | .tWrcmd _ => "T.WRCMD"
  | .tWrdata _ => "T.WRDATA"
  | .tSetbl _ => "T.SETBL"
  | .tWait _ => "T.WAIT"

/-- The encoding of `i` lies in the row of its mnemonic and is as long as its opcode says. -/
def Statement (i : Instr) : Prop :=
  match encode i with
  | .request [] => False
  | .request (h :: payload) =>
    (∃ row ∈ hostRows, row.mnemonic = mnemonic i ∧ row.covers h = true) ∧ payload.length + 1 = requestLength h
  | .transport t => ∃ row ∈ transportRows, row.mnemonic = mnemonic i ∧ row.covers t = true

theorem init : Statement .init := by
  refine ⟨⟨⟨"INIT", 0xFFFFFFFF, 0x01000000⟩, ?_, rfl, ?_⟩, ?_⟩ <;> decide

theorem clear : Statement .clear := by
  refine ⟨⟨⟨"CLEAR", 0xFFFFFFFF, 0x02000000⟩, ?_, rfl, ?_⟩, ?_⟩ <;> decide

theorem putchar (cp : Codepoint) : Statement (.putchar cp) := by
  refine ⟨⟨⟨"PUTCHAR", 0xFFE00000, 0x03000000⟩, by decide, rfl, ?_⟩, ?_⟩
  · exact beq_iff_eq.2 (mask_putchar cp)
  · have h := opcodeOf_putchar cp
    simp only [requestLength, h, glyphOpcode]
    rfl

theorem moveto (col row : BitVec 8) : Statement (.moveto col row) := by
  refine ⟨⟨⟨"MOVETO", 0xFFFF0000, 0x04000000⟩, by decide, rfl, ?_⟩, ?_⟩
  · exact beq_iff_eq.2 (mask_moveto col row)
  · have h := opcodeOf_moveto col row
    simp only [requestLength, h, glyphOpcode]
    rfl

theorem setbl (v : Bool) : Statement (.setbl v) := by
  cases v <;> (refine ⟨⟨⟨"SETBL", 0xFFFFFFFE, 0x05000000⟩, ?_, rfl, ?_⟩, ?_⟩ <;> decide)

theorem setdisp (v : Bool) : Statement (.setdisp v) := by
  cases v <;> (refine ⟨⟨⟨"SETDISP", 0xFFFFFFFE, 0x06000000⟩, ?_, rfl, ?_⟩, ?_⟩ <;> decide)

theorem setcursor (v : Bool) : Statement (.setcursor v) := by
  cases v <;> (refine ⟨⟨⟨"SETCURSOR", 0xFFFFFFFE, 0x07000000⟩, ?_, rfl, ?_⟩, ?_⟩ <;> decide)

theorem setblink (v : Bool) : Statement (.setblink v) := by
  cases v <;> (refine ⟨⟨⟨"SETBLINK", 0xFFFFFFFE, 0x08000000⟩, ?_, rfl, ?_⟩, ?_⟩ <;> decide)

theorem glyph (slot : BitVec 8) (p : Vector Byte 8) : Statement (.glyph slot p) := by
  refine ⟨⟨⟨"GLYPH", 0xFFFFFF00, 0x09000000⟩, by decide, rfl, ?_⟩, ?_⟩
  · exact beq_iff_eq.2 (mask_glyph slot)
  · have h := opcodeOf_glyph slot
    simp only [requestLength, h, glyphOpcode]
    rfl

theorem tWrinit (n : Nibble) : Statement (.tWrinit n) := by
  refine ⟨⟨"T.WRINIT", 0xFFFFF0, 0x000000⟩, by decide, rfl, ?_⟩
  revert n; decide

theorem tWrcmd (c : Byte) : Statement (.tWrcmd c) := by
  refine ⟨⟨"T.WRCMD", 0xFFFF00, 0x100000⟩, by decide, rfl, ?_⟩
  revert c; decide

theorem tWrdata (d : Byte) : Statement (.tWrdata d) := by
  refine ⟨⟨"T.WRDATA", 0xFFFF00, 0x200000⟩, by decide, rfl, ?_⟩
  revert d; decide

theorem tSetbl (v : Bool) : Statement (.tSetbl v) := by
  cases v <;> (refine ⟨⟨"T.SETBL", 0xFFFFFE, 0x300000⟩, ?_, rfl, ?_⟩ <;> decide)

theorem tWait (us : Micros) : Statement (.tWait us) := by
  refine ⟨⟨"T.WAIT", 0xF00000, 0x400000⟩, by decide, rfl, ?_⟩
  exact beq_iff_eq.2 (mask_tWait us)

end Sys2Proof.Laws.EncodingFitsRow
end

