-- ==== Sys2Proof/Laws/Pseudo.lean ====
section
/-! SUPPORT. The host's side of the request port: one request, sequences of requests, and power-on reset. -/

namespace Sys2Proof.Machine

open Sys2Proof

/-! ## One request -/

theorem hostMayIssue_iff {s : State} {i : Instr} : s.hostMayIssue i = true ↔ s.cfg.wf = true ∧ isHostRequest i = true := by
  rw [State.hostMayIssue, Bool.and_eq_true]

/-- Everything an answered request says. -/
theorem hostRequest_eq_some {i : Instr} {s t : State} {st : Status} (h : hostRequest i s = some (st, t)) :
    s.cfg.wf = true ∧ isHostRequest i = true ∧ exec i s = .next t ∧ t.responses.getLast? = some st := by
  unfold hostRequest at h
  split at h
  · rename_i hm
    obtain ⟨hc, hi⟩ := hostMayIssue_iff.1 hm
    cases he : exec i s with
    | next u =>
      simp only [he, Option.map_eq_some_iff, Prod.mk.injEq] at h
      obtain ⟨st', hl, rfl, rfl⟩ := h
      exact ⟨hc, hi, rfl, hl⟩
    | fault f => simp [he] at h
    | refused r => simp [he] at h
  · cases h

theorem hostRequest_of_exec {i : Instr} {s t : State} {st : Status} {before : List Status} (hc : s.cfg.wf = true)
    (hi : isHostRequest i = true) (h : exec i s = .next t) (hr : t.responses = before ++ [st]) :
    hostRequest i s = some (st, t) := by
  simp [hostRequest, hostMayIssue_iff.2 ⟨hc, hi⟩, h, hr]

/-- In an illegal configuration no request is answered (00_scope.md R16). -/
theorem hostRequest_of_illegal {s : State} (h : s.cfg.wf = false) (i : Instr) : hostRequest i s = none := by
  simp [hostRequest, State.hostMayIssue, h]

/-- While an operation is in progress no request is answered (70_reset_and_hazards.md R154). -/
theorem hostRequest_of_busy {s : State} {op : Instr} {k : List Act} (h : s.seq = .busy op k) (i : Instr) :
    hostRequest i s = none := by
  unfold hostRequest
  split
  · rename_i hm
    rw [exec_request_busy (hostMayIssue_iff.1 hm).2 h]
  · rfl

/-! ## Sequences -/

/-- Requests after a sequence that ended OK go on from its end. -/
theorem hostSequence_append (is js : List Instr) {s t : State} {n : Nat} (h : hostSequence is s = some ((.ok, n), t)) :
    hostSequence (is ++ js) s = (hostSequence js t).map fun r => ((r.1.1, r.1.2 + n), r.2) := by
  induction is generalizing s n with
  | nil =>
    simp only [hostSequence, Option.ite_none_right_eq_some, Option.some.injEq, Prod.mk.injEq] at h
    obtain ⟨-, ⟨-, rfl⟩, rfl⟩ := h
    simp
  | cons i is ih =>
    simp only [List.cons_append, hostSequence] at h ⊢
    split at h
    · cases h
    · rename_i u hu
      cases hs : hostSequence is u with
      | none => simp [hs] at h
      | some x =>
        obtain ⟨⟨st, m⟩, v⟩ := x
        simp only [hs, Option.map_some, Option.some.injEq, Prod.mk.injEq] at h
        obtain ⟨⟨rfl, rfl⟩, rfl⟩ := h
        simp [ih hs]
        rfl
    · rename_i hne hu
      simp only [Option.some.injEq, Prod.mk.injEq] at h
      obtain ⟨⟨rfl, -⟩, -⟩ := h
      exact absurd rfl hne

/-! ## Power-on reset -/

theorem powerOn_idle {s : State} (h : s.seq = .idle) {c : Configuration} (hc : c.wf = true) :
    powerOn c s = some (s.afterPowerOn c) := by
  simp [powerOn, h, hc]

/-- "A power-on reset while `BUSY` is outside the model" (70_reset_and_hazards.md R155). -/
theorem powerOn_busy {s : State} {op : Instr} {k : List Act} (h : s.seq = .busy op k) (c : Configuration) :
    powerOn c s = none := by
  simp [powerOn, h]

theorem powerOn_illegal (s : State) {c : Configuration} (hc : c.wf = false) : powerOn c s = none := by
  unfold powerOn
  split <;> simp [hc]

/-- CONSTRUCT is INIT from the state after the reset (R150). -/
theorem construct_idle {s : State} (h : s.seq = .idle) {c : Configuration} (hc : c.wf = true) :
    construct c s = hostRequest .init (s.afterPowerOn c) := by
  simp [construct, powerOn_idle h hc]

/-- CONSTRUCT exists only where the reset does. -/
theorem construct_of_no_reset {s : State} {c : Configuration} (h : powerOn c s = none) : construct c s = none := by
  simp [construct, h]

/-- The fields of the state after power-on reset that are not the block's. -/
theorem upcoming_afterPowerOn (s : State) (c : Configuration) (j : Nat) :
    (s.afterPowerOn c).upcoming j = s.upcoming j := rfl

end Sys2Proof.Machine
end

