-- ==== Sys2Proof/Laws/Traces.lean ====
section
/-! SUPPORT. What the events of a statement, a list of statements and a request look like: the bits of every byte, whole pulses, how
many writes, and which fields a request's statements write. Later proofs about traces and frames cite these. -/

namespace Sys2Proof.Machine

open Sys2Proof

/-! ## The stream of answers -/

theorem AllAck.not_errAfter {s : State} {m n : Nat} (h : AllAck s m) (he : ErrAfter s n) (hn : n < m) : False := by
  have h' := h n hn
  rw [he.2] at h'
  cases h'

/-- The first write answered ERR is one write. -/
theorem ErrAfter.unique {s : State} {m n : Nat} (h : ErrAfter s m) (h' : ErrAfter s n) : m = n := by
  rcases Nat.lt_trichotomy m n with hlt | heq | hlt
  · exact (h'.1.not_errAfter h hlt).elim
  · exact heq
  · exact (h.1.not_errAfter h' hlt).elim

/-! ## Bits of a byte -/

@[simp] theorem pcf_bl (bl : Bool) (n : Nibble) (rs e : Bool) : (pcf bl n rs e).getLsbD 3 = bl := by
  revert bl n rs e; decide

@[simp] theorem pcf_e (bl : Bool) (n : Nibble) (rs e : Bool) : (pcf bl n rs e).getLsbD 2 = e := by
  revert bl n rs e; decide

@[simp] theorem pcf_rw (bl : Bool) (n : Nibble) (rs e : Bool) : (pcf bl n rs e).getLsbD 1 = false := by
  revert bl n rs e; decide

@[simp] theorem pcf_rs (bl : Bool) (n : Nibble) (rs e : Bool) : (pcf bl n rs e).getLsbD 0 = rs := by
  revert bl n rs e; decide

theorem pcf_disable (bl : Bool) (n : Nibble) (rs : Bool) : pcf bl n rs false = pcf bl n rs true &&& 0xFB#8 := by
  revert bl n rs; decide

/-- A byte that a cut trace holds is in the whole trace. -/
theorem mem_cutAtWrite {n : Nat} {es : List Event} {d : DeviceAddr} {b : Byte} {a : Answer}
    (h : Event.write d b a ∈ cutAtWrite n es) : ∃ a', Event.write d b a' ∈ es := by
  induction es generalizing n with
  | nil => simp at h
  | cons e es ih =>
    cases e with
    | wait t =>
      simp only [cutAtWrite_wait, List.mem_cons, reduceCtorEq, false_or] at h
      obtain ⟨a', h'⟩ := ih h
      exact ⟨a', List.mem_cons_of_mem _ h'⟩
    | write d' b' a' =>
      cases n with
      | zero =>
        simp only [cutAtWrite_zero, List.mem_singleton, Event.write.injEq] at h
        obtain ⟨rfl, rfl, -⟩ := h
        exact ⟨a', List.mem_cons_self⟩
      | succ n =>
        simp only [cutAtWrite_succ, List.mem_cons] at h
        rcases h with h | h
        · exact ⟨a, h ▸ List.mem_cons_self⟩
        · obtain ⟨a'', h'⟩ := ih h
          exact ⟨a'', List.mem_cons_of_mem _ h'⟩

theorem mem_valueEvents {s : State} {v : Byte} {rs : Bool} {d : DeviceAddr} {b : Byte} {a : Answer}
    (h : Event.write d b a ∈ valueEvents s v rs) : d = deviceAddr s.cfg ∧ ∃ n e, b = pcf s.bl n rs e := by
  simp only [valueEvents, ackWrite, List.mem_cons, Event.write.injEq, List.not_mem_nil, or_false] at h
  rcases h with ⟨rfl, rfl, -⟩ | ⟨rfl, rfl, -⟩ | ⟨rfl, rfl, -⟩ | ⟨rfl, rfl, -⟩ <;> exact ⟨rfl, _, _, rfl⟩

theorem mem_nibbleEvents {s : State} {v : Nibble} {d : DeviceAddr} {b : Byte} {a : Answer}
    (h : Event.write d b a ∈ nibbleEvents s v) : d = deviceAddr s.cfg ∧ ∃ e, b = pcf s.bl v false e := by
  simp only [nibbleEvents, ackWrite, List.mem_cons, Event.write.injEq, List.not_mem_nil, or_false] at h
  rcases h with ⟨rfl, rfl, -⟩ | ⟨rfl, rfl, -⟩ <;> exact ⟨rfl, _, rfl⟩

theorem mem_commandEvents {s : State} {v : Byte} {d : DeviceAddr} {b : Byte} {a : Answer}
    (h : Event.write d b a ∈ commandEvents s v) : d = deviceAddr s.cfg ∧ ∃ n e, b = pcf s.bl n false e :=
  mem_valueEvents (v := v) (a := a) (by simpa [commandEvents] using h)

theorem mem_slowCommandEvents {s : State} {v : Byte} {d : DeviceAddr} {b : Byte} {a : Answer}
    (h : Event.write d b a ∈ slowCommandEvents s v) : d = deviceAddr s.cfg ∧ ∃ n e, b = pcf s.bl n false e :=
  mem_valueEvents (v := v) (a := a) (by simpa [slowCommandEvents] using h)

theorem mem_dataEvents {s : State} {v : Byte} {d : DeviceAddr} {b : Byte} {a : Answer}
    (h : Event.write d b a ∈ dataEvents s v) : d = deviceAddr s.cfg ∧ ∃ n e, b = pcf s.bl n true e :=
  mem_valueEvents (v := v) (a := a) (by simpa [dataEvents] using h)

/-! ## Whole pulses -/

theorem framed_append : ∀ (es fs : List Event), framed es = true → framed fs = true → framed (es ++ fs) = true
  | [], _, _, h => h
  | .wait _ :: es, fs, h, h' => by
    simp only [List.cons_append, framed] at h ⊢
    exact framed_append es fs h h'
  | [.write d b a], fs, h, h' => by
    simp only [framed, Bool.and_true, Bool.not_eq_true'] at h
    cases fs with
    | nil => simp only [List.append_nil, framed, h, Bool.not_false, Bool.and_true]
    | cons f fs => cases f <;> simp_all [framed]
  | .write d b a :: .wait t :: es, fs, h, h' => by
    simp only [List.cons_append, framed, Bool.and_eq_true] at h ⊢
    exact ⟨h.1, framed_append es fs h.2 h'⟩
  | .write d b a :: .write d' b' a' :: es, fs, h, h' => by
    simp only [List.cons_append, framed] at h ⊢
    split
    · rename_i hb
      simp only [hb, if_true, Bool.and_eq_true] at h ⊢
      exact ⟨h.1, framed_append es fs h.2 h'⟩
    · rename_i hb
      simp only [hb] at h
      exact framed_append (.write d' b' a' :: es) fs h h'

theorem framed_valueEvents (s : State) (v : Byte) (rs : Bool) : framed (valueEvents s v rs) = true := by
  simp only [valueEvents, ackWrite, framed, pcf_e, if_true, beq_self_eq_true, Bool.and_self,
    ← pcf_disable]

theorem framed_nibbleEvents (s : State) (n : Nibble) : framed (nibbleEvents s n) = true := by
  simp only [nibbleEvents, ackWrite, framed, pcf_e, if_true, beq_self_eq_true, Bool.and_self,
    ← pcf_disable]

theorem framed_events (a : Act) (s : State) : framed (a.events s) = true := by
  cases a with
  | issue p =>
    cases p with
    | wrInit n => rw [events_wrInit]; exact framed_nibbleEvents s n
    | wrCmd c => rw [events_wrCmd]; split <;> exact framed_append _ _ (framed_valueEvents s c false) rfl
    | wrData d => rw [events_wrData]; exact framed_append _ _ (framed_valueEvents s d true) rfl
    | setBl v => cases v <;> rfl
    | wait t => rfl
  | _ => rfl

theorem framed_planEvents (k : List Act) (s : State) : framed (planEvents k s) = true := by
  induction k generalizing s with
  | nil => rfl
  | cons a k ih => exact framed_append _ _ (framed_events a s) (ih _)

/-! ## How many writes -/

theorem writeCount_flatMap_dataEvents (s : State) (bs : List Byte) :
    writeCount (bs.flatMap (dataEvents s)) = 4 * bs.length := by
  induction bs with
  | nil => rfl
  | cons b bs ih => simp only [List.flatMap_cons, writeCount_append, writeCount_dataEvents, ih, List.length_cons]; omega

/-- No request makes more than the forty writes of GLYPH. -/
theorem writeCount_plan_le {i : Instr} {s : State} {k : List Act} (h : requestPlan s i = .ok k) :
    writeCount (planEvents k s) ≤ 40 := by
  cases i with
  | init => cases h; rw [planEvents_init]; split <;> simp
  | clear => cases h; rw [planEvents_clear]; simp
  | putchar cp =>
    simp only [requestPlan] at h
    split at h
    · cases h
      split
      · simp [planEvents]
      · rw [planEvents_lineFeed]; simp
    · split at h <;> cases h
      rw [planEvents_character]; simp
  | moveto c r =>
    simp only [requestPlan] at h
    split at h <;> cases h
    rw [planEvents_moveto]; simp
  | setbl v => cases h; simp [planEvents]
  | setdisp v => cases h; simp [planEvents]
  | setcursor v => cases h; simp [planEvents]
  | setblink v => cases h; simp [planEvents]
  | glyph slot p =>
    simp only [requestPlan] at h
    split at h <;> cases h
    rw [planEvents_glyph]; simp [writeCount_flatMap_dataEvents]
  | _ => cases h; simp [planEvents]

/-! ## What a request's statements write -/

theorem planState_frame (k : List Act) (s : State) :
    (planState k s).cfg = s.cfg ∧ (planState k s).seq = s.seq ∧ (planState k s).trace = s.trace
      ∧ (planState k s).hostPort = s.hostPort ∧ (planState k s).adapterPort = s.adapterPort
      ∧ (planState k s).answers = s.answers ∧ (planState k s).draws = s.draws ∧ (planState k s).responses = s.responses := by
  induction k generalizing s with
  | nil => exact ⟨rfl, rfl, rfl, rfl, rfl, rfl, rfl, rfl⟩
  | cons a k ih =>
    have h := ih (a.planned s)
    simpa only [planState, a.planned_frame s] using h

theorem planStateAt_frame (n : Nat) (k : List Act) (s : State) :
    (planStateAt n k s).cfg = s.cfg ∧ (planStateAt n k s).seq = s.seq ∧ (planStateAt n k s).trace = s.trace
      ∧ (planStateAt n k s).hostPort = s.hostPort ∧ (planStateAt n k s).adapterPort = s.adapterPort
      ∧ (planStateAt n k s).answers = s.answers ∧ (planStateAt n k s).draws = s.draws
      ∧ (planStateAt n k s).responses = s.responses := by
  induction k generalizing s n with
  | nil => exact ⟨rfl, rfl, rfl, rfl, rfl, rfl, rfl, rfl⟩
  | cons a k ih =>
    simp only [planStateAt]
    split
    · exact a.planned_frame s
    · have h := ih (n - writeCount (a.events s)) (a.planned s)
      simpa only [a.planned_frame s] using h

/-- A primitive writes no field that instructions see but FLAGS.BL, and that only in T.SETBL. -/
theorem entry_frame (p : Prim) (s : State) :
    (p.entry s).cursorX = s.cursorX ∧ (p.entry s).cursorY = s.cursorY ∧ (p.entry s).impliedNl = s.impliedNl
      ∧ (p.entry s).d = s.d ∧ (p.entry s).c = s.c ∧ (p.entry s).b = s.b := by
  cases p <;> simp [Prim.entry]

theorem mem_wrapActs {c : Configuration} {x y : Nat} {lf : Bool} {a : Act} (h : a ∈ wrapActs c x y lf) :
    (∃ v, a = .setCursorX v) ∨ (∃ v, a = .setCursorY v) ∨ (∃ v, a = .setImpliedNl v) ∨ ∃ q, a = .issue (.wrCmd q) := by
  unfold wrapActs syncAddr at h
  split at h <;> split at h <;> simp at h <;> (repeat' rcases h with rfl | h) <;> simp_all

/-- Which statements a request's list can hold: only these write a field of the Session. -/
theorem mem_requestPlan {i : Instr} {s : State} {k : List Act} (hk : requestPlan s i = .ok k) {a : Act} (ha : a ∈ k) :
    (i ≠ .init → i ≠ .clear → (∀ col row, i ≠ .moveto col row) → (∀ cp, i ≠ .putchar cp) →
        (∀ v, a ≠ .setCursorX v) ∧ (∀ v, a ≠ .setCursorY v))
      ∧ (i ≠ .init → i ≠ .clear → (∀ cp, i ≠ .putchar cp) → ∀ v, a ≠ .setImpliedNl v)
      ∧ (i ≠ .init → (∀ v, i ≠ .setbl v) → ∀ v, a ≠ .issue (.setBl v))
      ∧ (i = .init → ∀ v, a = .issue (.setBl v) → v = s.bl)
      ∧ (i ≠ .init → (∀ v, i ≠ .setdisp v) → ∀ v, a ≠ .setD v)
      ∧ ((∀ v, i ≠ .setcursor v) → ∀ v, a ≠ .setC v)
      ∧ ((∀ v, i ≠ .setblink v) → ∀ v, a ≠ .setB v) := by
  cases i with
  | init =>
    cases hk
    unfold initActs initHandshake homeCursor issueDctl at ha
    split at ha <;> simp at ha <;> (repeat' rcases ha with rfl | ha) <;> simp_all
  | clear =>
    cases hk
    simp [clearActs, homeCursor] at ha
    rcases ha with rfl | rfl | rfl | rfl <;> simp
  | putchar cp =>
    simp only [requestPlan] at hk
    split at hk
    · cases hk
      split at ha
      · simp at ha; subst ha; simp
      · simp only [lineFeedActs, List.mem_cons] at ha
        rcases ha with rfl | ha
        · simp
        · rcases mem_wrapActs ha with ⟨v, rfl⟩ | ⟨v, rfl⟩ | ⟨v, rfl⟩ | ⟨v, rfl⟩ <;> simp
    · split at hk
      · cases hk
      · cases hk
        simp only [characterActs, List.mem_cons] at ha
        rcases ha with rfl | rfl | ha
        · simp
        · simp
        · rcases mem_wrapActs ha with ⟨v, rfl⟩ | ⟨v, rfl⟩ | ⟨v, rfl⟩ | ⟨v, rfl⟩ <;> simp
  | moveto c r =>
    simp only [requestPlan] at hk
    split at hk <;> cases hk
    simp [movetoActs, syncAddr] at ha
    rcases ha with rfl | rfl | rfl <;> simp
  | setbl v => cases hk; simp at ha; subst ha; simp
  | setdisp v => cases hk; simp [issueDctl] at ha; rcases ha with rfl | rfl <;> simp
  | setcursor v => cases hk; simp [issueDctl] at ha; rcases ha with rfl | rfl <;> simp
  | setblink v => cases hk; simp [issueDctl] at ha; rcases ha with rfl | rfl <;> simp
  | glyph slot p =>
    simp only [requestPlan] at hk
    split at hk <;> cases hk
    simp [glyphActs, syncAddr] at ha
    rcases ha with rfl | ⟨b, _, rfl⟩ | rfl <;> simp
  | _ => cases hk; simp at ha

/-- Which request is rejected with which status (60_exceptions.md R131 to R133). -/
theorem requestPlan_error {i : Instr} {s : State} {e : Status} (h : requestPlan s i = .error e) :
    (e = .invalidPosition ∧ ∃ col row, i = .moveto col row) ∨ (e = .invalidGlyphSlot ∧ ∃ slot p, i = .glyph slot p)
      ∨ (e = .invalidCharacter ∧ ∃ cp, i = .putchar cp) := by
  cases i with
  | putchar cp =>
    simp only [requestPlan] at h
    split at h
    · cases h
    · split at h <;> cases h
      exact .inr (.inr ⟨rfl, cp, rfl⟩)
  | moveto c r =>
    simp only [requestPlan] at h
    split at h <;> cases h
    exact .inl ⟨rfl, c, r, rfl⟩
  | glyph slot p =>
    simp only [requestPlan] at h
    split at h <;> cases h
    exact .inr (.inl ⟨rfl, slot, p, rfl⟩)
  | _ => cases h

/-- A statement that is not T.SETBL keeps the backlight flag. -/
theorem planned_bl (a : Act) (s : State) (h : ∀ v, a = .issue (.setBl v) → v = s.bl) : (a.planned s).bl = s.bl := by
  cases a with
  | issue p =>
    cases p with
    | setBl v => rw [planned_setBl, State.writeBl_bl]; exact h v rfl
    | _ => rfl
  | setD v => exact s.writeD_bl v
  | setC v => exact s.writeC_bl v
  | setB v => exact s.writeB_bl v
  | _ => rfl

end Sys2Proof.Machine
end

