-- ==== Sys2Proof/Laws/WellFormed.lean ====
section
/-! SUPPORT. What a legal configuration says (00_scope.md R16), as propositions, and the bounds that follow. -/

namespace Sys2Proof

/-- The checks of R16 as propositions. -/
structure Configuration.Legal (c : Configuration) : Prop where
  rows : c.rows = 1 ∨ c.rows = 2 ∨ c.rows = 4
  cols : 1 ≤ c.cols ∧ c.cols ≤ if c.rows = 4 then 20 else 40
  addr : 0x20 ≤ c.devAddr ∧ c.devAddr ≤ 0x27
  keys : ∀ kv ∈ c.charmapOverrides, 0x80 ≤ kv.1 ∧ kv.1 ≤ 0x10FFFF
  values : ∀ kv ∈ c.charmapOverrides, kv.2 ≤ 0xFF
  fits : ∀ y < c.rows, (c.rowBase.at y).toNat + c.cols - 1 ≤ 0x7F
  disjoint : ∀ y < c.rows, ∀ z < c.rows, y = z ∨ (c.rowBase.at y).toNat + c.cols ≤ (c.rowBase.at z).toNat
    ∨ (c.rowBase.at z).toNat + c.cols ≤ (c.rowBase.at y).toNat
  settle : c.tSettleUs < 2 ^ 20
  canonical : (c.charmapOverrides.map Prod.fst).Pairwise (· < ·)

theorem Configuration.wf_iff (c : Configuration) : c.wf = true ↔ c.Legal := by
  simp only [wf, rowsLegal, colsLegal, addrLegal, charmapKeys, charmapValues, rowBaseFits, rowBaseDisjoint, settleLegal,
    charmapCanonical, Bool.and_eq_true, decide_eq_true_eq, List.all_eq_true, List.mem_range]
  exact ⟨fun ⟨⟨⟨⟨⟨⟨⟨⟨h1, h2⟩, h3⟩, h4⟩, h5⟩, h6⟩, h7⟩, h8⟩, h9⟩ => ⟨h1, h2, h3, h4, h5, h6, h7, h8, h9⟩,
    fun ⟨h1, h2, h3, h4, h5, h6, h7, h8, h9⟩ => ⟨⟨⟨⟨⟨⟨⟨⟨h1, h2⟩, h3⟩, h4⟩, h5⟩, h6⟩, h7⟩, h8⟩, h9⟩⟩

theorem Configuration.Legal.rows_pos {c : Configuration} (h : c.Legal) : 0 < c.rows := by
  rcases h.rows with h | h | h <;> omega

theorem Configuration.Legal.rows_le {c : Configuration} (h : c.Legal) : c.rows ≤ 4 := by
  rcases h.rows with h | h | h <;> omega

theorem Configuration.Legal.cols_pos {c : Configuration} (h : c.Legal) : 0 < c.cols := h.cols.1

theorem Configuration.Legal.cols_le {c : Configuration} (h : c.Legal) : c.cols ≤ 40 := by
  have := h.cols.2
  split at this <;> omega

end Sys2Proof
end

