-- ==== Sys2Proof/Tests/Slice0.lean ====
section
/-! SUPPORT. Tests of the model against the spec's own words and test vectors (95_test_vectors.md), and for every obligation with
hypotheses a witness that meets them. Expected values are copied from the spec's tables, the words from its encodings. -/

namespace Sys2Proof.Tests

open Sys2Proof Sys2Proof.Machine

/-! ## Helpers -/

/-- `n` answers ACK. -/
def acks (n : Nat) : List Answer := List.replicate n .ack

/-- `n` answers ACK and then one ERR. -/
def errAt (n : Nat) : List Answer := acks n ++ [.err]

/-- A state written `(x, y, NL, FLAGS)` as the test vectors write it, with the Transport's answers. -/
def at' (c : Configuration) (x : BitVec 8) (y : BitVec 2) (nl : Bool) (f : BitVec 4) (answers : List Answer) : State :=
  { State.resetWith c with cursorX := x, cursorY := y, impliedNl := nl, flags := f, answers := answers }

/-- The vectors' default configuration, with `ts` = 40. -/
def std : Configuration := Config.standard

/-- A display of another geometry. -/
def geometry (rows cols : Nat) : Configuration := Config.ofGeometry rows cols 0x27 40

/-- `W(b)` answered ACK. -/
def W (b : Byte) : Event := .write 0x27 b .ack

/-- `W(b)!ERR`. -/
def WErr (b : Byte) : Event := .write 0x27 b .err

/-- `T(t)`. -/
def T (t : Nat) : Event := .wait (BitVec.ofNat 20 t)

/-- The state a step ends in. -/
def nextState : Host.Outcome State Fault Refusal → Option State
  | .next t => some t
  | .fault _ => none
  | .refused _ => none

/-- The observation of one operation from an empty trace (00_scope.md R19): statuses, trace, `(x, y, NL, FLAGS)`. -/
structure Seen where
  statuses : List Status
  events : List Event
  x : BitVec 8
  y : BitVec 2
  nl : Bool
  flags : BitVec 4
  deriving DecidableEq, Repr

/-- What is observed of a step. -/
def seen (o : Host.Outcome State Fault Refusal) : Option Seen :=
  (nextState o).map fun t => ⟨t.responses, t.trace, t.cursorX, t.cursorY, t.impliedNl, t.flags⟩

/-- Why a step stops. -/
def refusal : Host.Outcome State Fault Refusal → Option Refusal
  | .next _ => none
  | .fault _ => none
  | .refused r => some r

/-- What a decoder answers, as an option. -/
def decoded (e : Encoded) : Option Instr :=
  match decode e with
  | .ok i => some i
  | .error _ => none

/-- Why a decoder rejects. -/
def rejected (e : Encoded) : Option Reject :=
  match decode e with
  | .ok _ => none
  | .error r => some r

/-! ## WellFormed: an ill-formed configuration for each check of 00_scope.md R16 -/

theorem test_wf_accepts_vectors :
    std.wf = true ∧ (geometry 2 16).wf = true ∧ (geometry 1 40).wf = true ∧ (geometry 2 40).wf = true := by decide

theorem test_rows_legal_refuses : ({ std with rows := 3 } : Configuration).rowsLegal = false
    ∧ ({ std with rows := 3 } : Configuration).wf = false := by decide

theorem test_cols_legal_refuses : ({ std with cols := 0 } : Configuration).colsLegal = false
    ∧ ({ std with cols := 21 } : Configuration).colsLegal = false ∧ (geometry 2 41).colsLegal = false
    ∧ ({ std with cols := 0 } : Configuration).wf = false := by decide

theorem test_addr_legal_refuses : ({ std with devAddr := 0x1F } : Configuration).addrLegal = false
    ∧ ({ std with devAddr := 0x28 } : Configuration).addrLegal = false
    ∧ ({ std with devAddr := 0x28 } : Configuration).wf = false := by decide

theorem test_charmap_keys_refuses :
    ({ std with charmapOverrides := [(0x7F, 1)] } : Configuration).charmapKeys = false
    ∧ ({ std with charmapOverrides := [(0x110000, 1)] } : Configuration).charmapKeys = false
    ∧ ({ std with charmapOverrides := [(0x7F, 1)] } : Configuration).wf = false := by decide

theorem test_charmap_values_refuses :
    ({ std with charmapOverrides := [(0x416, 0x100)] } : Configuration).charmapValues = false
    ∧ ({ std with charmapOverrides := [(0x416, 0x100)] } : Configuration).wf = false := by decide

theorem test_row_base_fits_refuses :
    ({ std with rowBase := ⟨0x00, 0x40, 0x14, 0x6D⟩ } : Configuration).rowBaseFits = false
    ∧ ({ std with rowBase := ⟨0x00, 0x40, 0x14, 0x6D⟩ } : Configuration).wf = false := by decide

theorem test_row_base_disjoint_refuses :
    ({ std with rowBase := ⟨0x00, 0x40, 0x13, 0x54⟩ } : Configuration).rowBaseDisjoint = false
    ∧ ({ std with rowBase := ⟨0x00, 0x40, 0x13, 0x54⟩ } : Configuration).wf = false := by decide

theorem test_settle_legal_refuses : ({ std with tSettleUs := 2 ^ 20 } : Configuration).settleLegal = false
    ∧ ({ std with tSettleUs := 2 ^ 20 } : Configuration).wf = false := by decide

theorem test_charmap_canonical_refuses :
    ({ std with charmapOverrides := [(0x416, 1), (0x416, 2)] } : Configuration).charmapCanonical = false
    ∧ ({ std with charmapOverrides := [(0x416, 1), (0x416, 2)] } : Configuration).wf = false := by decide

/-! ## Decoding: words written out from 30_encoding.md R60 to R68 and R72 -/

theorem test_decode_init : decoded (.request [0x01000000]) = some .init := by decide
theorem test_decode_clear : decoded (.request [0x02000000]) = some .clear := by decide
theorem test_decode_putchar : decoded (.request [0x03000048]) = some (.putchar 0x48)
    ∧ decoded (.request [0x031FFFFF]) = some (.putchar 0x1FFFFF) := by decide
theorem test_decode_moveto : decoded (.request [0x04000D00]) = some (.moveto 13 0)
    ∧ decoded (.request [0x04000501]) = some (.moveto 5 1) := by decide
theorem test_decode_setbl : decoded (.request [0x05000001]) = some (.setbl true)
    ∧ decoded (.request [0x05000000]) = some (.setbl false) := by decide
theorem test_decode_setdisp : decoded (.request [0x06000001]) = some (.setdisp true) := by decide
theorem test_decode_setcursor : decoded (.request [0x07000001]) = some (.setcursor true) := by decide
theorem test_decode_setblink : decoded (.request [0x08000000]) = some (.setblink false) := by decide
theorem test_decode_glyph : decoded (.request [0x09000003, 0x1F1F0A00, 0x0000040E])
    = some (.glyph 3 #v[0x00, 0x0A, 0x1F, 0x1F, 0x0E, 0x04, 0x00, 0x00]) := by decide
theorem test_decode_tWrinit : decoded (.transport 0x000003) = some (.tWrinit 3) := by decide
theorem test_decode_tWrcmd : decoded (.transport 0x100028) = some (.tWrcmd 0x28) := by decide
theorem test_decode_tWrdata : decoded (.transport 0x200048) = some (.tWrdata 0x48) := by decide
theorem test_decode_tSetbl : decoded (.transport 0x300001) = some (.tSetbl true) := by decide
theorem test_decode_tWait : decoded (.transport 0x404E20) = some (.tWait 20000) := by decide

/-- The rejections of 95_test_vectors.md 2.1, and the reserved kinds and values of R72. -/
theorem test_decode_rejects : rejected (.request [0x00000000]) = some .reservedOpcode
    ∧ rejected (.request [0x0A000000]) = some .reservedOpcode ∧ rejected (.request [0xFF000041]) = some .reservedOpcode
    ∧ rejected (.request [0x01000001]) = some .reservedOperandBits
    ∧ rejected (.request [0x02800000]) = some .reservedOperandBits
    ∧ rejected (.request [0x03200041]) = some .reservedOperandBits
    ∧ rejected (.request [0x04010000]) = some .reservedOperandBits
    ∧ rejected (.request [0x05000002]) = some .reservedOperandBits
    ∧ rejected (.request [0x08000003]) = some .reservedOperandBits
    ∧ rejected (.request [0x09000100, 0, 0]) = some .reservedOperandBits
    ∧ rejected (.request [0x09000003, 0]) = some .wordsMissing ∧ rejected (.request [0x01000000, 0]) = some .wordsLeftOver
    ∧ rejected (.transport 0x500000) = some .reservedKind ∧ rejected (.transport 0x000013) = some .reservedValueBits := by
  decide

/-- Every row's `match` value, at the table's width, decodes to the row's instruction. -/
theorem test_decodeTableWord :
    [(32, 0x01000000), (32, 0x02000000), (32, 0x03000000), (32, 0x04000000), (32, 0x05000000), (32, 0x06000000),
      (32, 0x07000000), (32, 0x08000000), (96, 0x09000000), (24, 0x000000), (24, 0x100000), (24, 0x200000), (24, 0x300000),
      (24, 0x400000)].map (fun r => decodeTableWord r.1 r.2)
      = [some .init, some .clear, some (.putchar 0), some (.moveto 0 0), some (.setbl false), some (.setdisp false),
        some (.setcursor false), some (.setblink false), some (.glyph 0 #v[0, 0, 0, 0, 0, 0, 0, 0]), some (.tWrinit 0),
        some (.tWrcmd 0), some (.tWrdata 0), some (.tSetbl false), some (.tWait 0)] := by decide

/-! ## The host requests (95_test_vectors.md 1.8, 2.3 to 2.7) -/

theorem test_init_from_reset : seen (exec .init (at' std 0 0 false 0x8 (acks 25)))
    = some ⟨[.ok], [W 0x08, T 20000, W 0x3C, W 0x38, T 5000, W 0x3C, W 0x38, T 1000, W 0x3C, W 0x38, T 1000, W 0x2C, W 0x28,
        T 1000, W 0x2C, W 0x28, W 0x8C, W 0x88, T 40, W 0x0C, W 0x08, W 0x6C, W 0x68, T 40, W 0x0C, W 0x08, W 0xCC, W 0xC8,
        T 40, W 0x0C, W 0x08, W 0x1C, W 0x18, T 5000], 0, 0, false, 0xC⟩ := by decide

theorem test_init_err_at_write_18 : seen (exec .init (at' std 3 0 true 0x8 (errAt 17)))
    = some ⟨[.transportError], [W 0x08, T 20000, W 0x3C, W 0x38, T 5000, W 0x3C, W 0x38, T 1000, W 0x3C, W 0x38, T 1000,
        W 0x2C, W 0x28, T 1000, W 0x2C, W 0x28, W 0x8C, W 0x88, T 40, W 0x0C, W 0x08, W 0x6C, W 0x68, T 40, WErr 0x0C],
        3, 0, true, 0xC⟩ := by decide

theorem test_clear : seen (exec .clear (at' std 7 2 true 0xC (acks 4)))
    = some ⟨[.ok], [W 0x0C, W 0x08, W 0x1C, W 0x18, T 5000], 0, 0, false, 0xC⟩ := by decide

theorem test_clear_err_at_write_4 : seen (exec .clear (at' std 3 3 true 0x8 (errAt 3)))
    = some ⟨[.transportError], [W 0x0C, W 0x08, W 0x1C, WErr 0x18], 3, 3, true, 0x8⟩ := by decide

theorem test_moveto : seen (exec (.moveto 3 3) (at' std 0 1 true 0xC (acks 4)))
      = some ⟨[.ok], [W 0xDC, W 0xD8, W 0x7C, W 0x78, T 40], 3, 3, true, 0xC⟩
    ∧ seen (exec (.moveto 5 2) (at' std 0 0 false 0x8 (errAt 2)))
      = some ⟨[.transportError], [W 0x9C, W 0x98, WErr 0x9C], 5, 2, false, 0x8⟩ := by decide

theorem test_moveto_outside : seen (exec (.moveto 20 0) (at' std 0 2 false 0x8 []))
      = some ⟨[.invalidPosition], [], 0, 2, false, 0x8⟩
    ∧ seen (exec (.moveto 0 2) (at' (geometry 2 16) 15 1 false 0x8 [])) = some ⟨[.invalidPosition], [], 15, 1, false, 0x8⟩ := by
  decide

theorem test_putchar_character : seen (exec (.putchar 0x5A) (at' std 19 3 false 0xC (acks 8)))
      = some ⟨[.ok], [W 0x5D, W 0x59, W 0xAD, W 0xA9, T 40, W 0x8C, W 0x88, W 0x0C, W 0x08, T 40], 0, 0, true, 0xC⟩
    ∧ seen (exec (.putchar 0x41) (at' std 19 0 false 0x8 (errAt 4)))
      = some ⟨[.transportError], [W 0x4D, W 0x49, W 0x1D, W 0x19, T 40, WErr 0xCC], 0, 1, true, 0x8⟩
    ∧ seen (exec (.putchar 0x416) (at' { std with charmapOverrides := [(0x416, 0x01)] } 1 0 false 0xC (acks 8)))
      = some ⟨[.ok], [W 0x0D, W 0x09, W 0x1D, W 0x19, T 40, W 0x8C, W 0x88, W 0x2C, W 0x28, T 40], 2, 0, false, 0xC⟩
    ∧ seen (exec (.putchar 0x110000) (at' std 2 0 false 0xC [])) = some ⟨[.invalidCharacter], [], 2, 0, false, 0xC⟩ := by
  decide

theorem test_putchar_lineFeed : seen (exec (.putchar 0x0A) (at' std 7 3 false 0xC (acks 4)))
      = some ⟨[.ok], [W 0x8C, W 0x88, W 0x0C, W 0x08, T 40], 0, 0, false, 0xC⟩
    ∧ seen (exec (.putchar 0x0A) (at' std 1 1 true 0xC [])) = some ⟨[.ok], [], 1, 1, false, 0xC⟩ := by decide

theorem test_setbl : seen (exec (.setbl true) (at' std 0 0 false 0xE (acks 1))) = some ⟨[.ok], [W 0x08], 0, 0, false, 0xE⟩
    ∧ seen (exec (.setbl false) (at' std 0 0 false 0xC (errAt 0)))
      = some ⟨[.transportError], [WErr 0x00], 0, 0, false, 0x4⟩ := by decide

theorem test_setdisp : seen (exec (.setdisp false) (at' std 0 0 false 0xC (acks 4)))
      = some ⟨[.ok], [W 0x0C, W 0x08, W 0x8C, W 0x88, T 40], 0, 0, false, 0x8⟩
    ∧ seen (exec (.setdisp true) (at' std 0 0 false 0x8 (errAt 1)))
      = some ⟨[.transportError], [W 0x0C, WErr 0x08], 0, 0, false, 0xC⟩ := by decide

theorem test_setcursor : seen (exec (.setcursor true) (at' std 0 0 false 0xC (acks 4)))
    = some ⟨[.ok], [W 0x0C, W 0x08, W 0xEC, W 0xE8, T 40], 0, 0, false, 0xE⟩ := by decide

theorem test_setblink : seen (exec (.setblink true) (at' std 0 0 false 0xE (acks 4)))
      = some ⟨[.ok], [W 0x0C, W 0x08, W 0xFC, W 0xF8, T 40], 0, 0, false, 0xF⟩
    ∧ seen (exec (.setblink false) (at' std 0 0 false 0x7 (acks 4)))
      = some ⟨[.ok], [W 0x04, W 0x00, W 0xE4, W 0xE0, T 40], 0, 0, false, 0x6⟩ := by decide

theorem test_glyph : seen (exec (.glyph 3 #v[0x00, 0x0A, 0x1F, 0x1F, 0x0E, 0x04, 0x00, 0x00]) (at' std 5 1 false 0x8 (acks 40)))
    = some ⟨[.ok], [W 0x5C, W 0x58, W 0x8C, W 0x88, T 40, W 0x0D, W 0x09, W 0x0D, W 0x09, T 40, W 0x0D, W 0x09, W 0xAD, W 0xA9,
        T 40, W 0x1D, W 0x19, W 0xFD, W 0xF9, T 40, W 0x1D, W 0x19, W 0xFD, W 0xF9, T 40, W 0x0D, W 0x09, W 0xED, W 0xE9, T 40,
        W 0x0D, W 0x09, W 0x4D, W 0x49, T 40, W 0x0D, W 0x09, W 0x0D, W 0x09, T 40, W 0x0D, W 0x09, W 0x0D, W 0x09, T 40,
        W 0xCC, W 0xC8, W 0x5C, W 0x58, T 40], 5, 1, false, 0x8⟩ := by decide

theorem test_glyph_rejected_and_cut :
    seen (exec (.glyph 8 #v[0, 0, 0, 0, 0, 0, 0, 0]) (at' std 5 1 false 0x8 [])) = some ⟨[.invalidGlyphSlot], [], 5, 1, false, 0x8⟩
    ∧ seen (exec (.glyph 1 #v[1, 2, 3, 4, 5, 6, 7, 8]) (at' std 2 1 false 0x8 (errAt 19)))
      = some ⟨[.transportError], [W 0x4C, W 0x48, W 0x8C, W 0x88, T 40, W 0x0D, W 0x09, W 0x1D, W 0x19, T 40, W 0x0D, W 0x09,
          W 0x2D, W 0x29, T 40, W 0x0D, W 0x09, W 0x3D, W 0x39, T 40, W 0x0D, W 0x09, W 0x4D, WErr 0x49], 2, 1, false, 0x8⟩ := by
  decide

/-! ## The transport words (95_test_vectors.md 2.2) -/

theorem test_tWrinit : seen (exec (.tWrinit 0x3) (at' std 0 0 false 0x8 (acks 2))) = some ⟨[], [W 0x3C, W 0x38], 0, 0, false, 0x8⟩
    ∧ seen (exec (.tWrinit 0x3) (at' std 0 0 false 0x0 (acks 2))) = some ⟨[], [W 0x34, W 0x30], 0, 0, false, 0x0⟩ := by decide

theorem test_tWrcmd : seen (exec (.tWrcmd 0x03) (at' std 0 0 false 0x8 (acks 4)))
      = some ⟨[], [W 0x0C, W 0x08, W 0x3C, W 0x38, T 5000], 0, 0, false, 0x8⟩
    ∧ seen (exec (.tWrcmd 0x04) (at' std 0 0 false 0x8 (acks 4)))
      = some ⟨[], [W 0x0C, W 0x08, W 0x4C, W 0x48, T 40], 0, 0, false, 0x8⟩ := by decide

theorem test_tWrdata : seen (exec (.tWrdata 0x01) (at' std 0 0 false 0x8 (acks 4)))
      = some ⟨[], [W 0x0D, W 0x09, W 0x1D, W 0x19, T 40], 0, 0, false, 0x8⟩
    ∧ seen (exec (.tWrdata 0x48) (at' std 0 0 false 0x0 (acks 4)))
      = some ⟨[], [W 0x45, W 0x41, W 0x85, W 0x81, T 40], 0, 0, false, 0x0⟩ := by decide

theorem test_tSetbl : seen (exec (.tSetbl false) (at' std 0 0 false 0x8 (acks 1))) = some ⟨[], [W 0x00], 0, 0, false, 0x0⟩
    ∧ seen (exec (.tSetbl true) (at' std 0 0 false 0x0 (acks 1))) = some ⟨[], [W 0x08], 0, 0, false, 0x8⟩ := by decide

theorem test_tWait : seen (exec (.tWait 20000) (at' std 0 0 false 0x8 [])) = some ⟨[], [T 20000], 0, 0, false, 0x8⟩
    ∧ seen (exec (.tWait 0) (at' std 0 0 false 0x8 [])) = some ⟨[], [T 0], 0, 0, false, 0x8⟩ := by decide

/-! ## Stepping -/

/-- An undecodable GLYPH consumes its payload (95_test_vectors.md 2.1). -/
theorem test_step_invalidOperation :
    seen (step { at' std 0 0 false 0xC [] with hostPort := [0x090001FF, 0, 0] }) = some ⟨[.invalidOperation], [], 0, 0, false, 0xC⟩
    ∧ (nextState (step { at' std 0 0 false 0xC [] with hostPort := [0x090001FF, 0, 0] })).map State.hostPort = some [] := by
  decide

/-- Placed words are what the next step runs, as the first instruction after reset (T.WAIT and the validation errors need no
answer of the Transport). -/
theorem test_withFetchWord : seen (step (State.reset.withFetchWord 24 0x404E20)) = some ⟨[], [T 20000], 0, 0, false, 0x8⟩
    ∧ seen (step (State.reset.withFetchWord 32 0x04001400)) = some ⟨[.invalidPosition], [], 0, 0, false, 0x8⟩
    ∧ seen (step (State.reset.withFetchWord 96 0x09000008)) = some ⟨[.invalidGlyphSlot], [], 0, 0, false, 0x8⟩ := by decide

theorem test_step_refusals : refusal (step { at' { std with rows := 3 } 0 0 false 0x8 [] with hostPort := [0x01000000] })
      = some .illegalConfiguration
    ∧ refusal (step { at' std 0 0 false 0x8 [] with adapterPort := some 0x500000 }) = some .reservedTransportWord
    ∧ refusal (exec .clear { at' std 0 0 false 0x8 [] with seq := .busy .clear [] }) = some .portNotAccepting := by decide

/-- From BUSY the operation goes on one statement at a time: T.WRCMD 0x01 goes on the transport port (R30). -/
theorem test_step_busy :
    (nextState (step { at' std 0 0 false 0x8 [] with seq := .busy .clear clearActs })).map
        (fun t => (t.adapterPort, t.seq)) = some (some 0x100001, .busy .clear homeCursor) := by decide

/-! ## Assembler text (30_encoding.md R80, R81) -/

theorem test_assemble : assembleLine "MOVETO 13, 0".toList = some (.request (.moveto 13 0))
    ∧ assembleLine "PUTCHAR 'H'".toList = some (.request (.putchar 0x48))
    ∧ assembleLine "PUTCHAR U+0416".toList = some (.request (.putchar 0x416))
    ∧ assembleLine "SETBL on".toList = some (.request (.setbl true))
    ∧ assembleLine "GLYPH 3, 0x00,0x0A,0x1F,0x1F,0x0E,0x04,0x00,0x00".toList
      = some (.request (.glyph 3 #v[0x00, 0x0A, 0x1F, 0x1F, 0x0E, 0x04, 0x00, 0x00]))
    ∧ assembleLine "PUTSTR \"XY\"".toList = some (.pseudo (.putstr [0x58, 0x59]))
    -- the model's choice (log 18): a quote mark inside a string is a character
    ∧ assembleLine "PUTSTR \"X\"Y\"".toList = some (.pseudo (.putstr [0x58, 0x22, 0x59]))
    ∧ assembleLine "BLON".toList = some (.pseudo .blon) ∧ assembleLine "MOVETO 256, 0".toList = none := by decide

theorem test_write : writeInstr (.tWrcmd 0x28) = "T.WRCMD 0x28".toList ∧ writeInstr (.tWait 20000) = "T.WAIT 20000".toList
    ∧ writeEvent (W 0x3C) = "W(0x3C)".toList ∧ writeEvent (T 5000) = "T(5000)".toList
    ∧ writeEvent (WErr 0x0C) = "W(0x0C)!ERR".toList := by decide

/-- The pseudo-instructions' expansions (R81): BLOFF is SETBL 0; PUTSTR stops after the first status that is not OK. -/
theorem test_pseudo : (runPseudo .bloff (at' std 0 0 false 0xC (acks 1))).map (fun r => (r.1, r.2.flags)) = some ((.ok, 1), 0x4)
    ∧ (runPseudo (.putstr [0x48, 0x100, 0x49]) (at' std 0 0 false 0xC (acks 8))).map
        (fun r => (r.1, r.2.cursorX)) = some ((.invalidCharacter, 1), 1) := by decide

/-! ## Witnesses: for each obligation with hypotheses, a state and operands that meet all of them -/

/-- After INIT at column `x` and row `y`, every one of the next `n` writes ACKed. -/
def ready (x : BitVec 8) (y : BitVec 2) (nl : Bool) (n : Nat) : State := at' std x y nl 0xC (acks n)

/-- After INIT, the next `n` writes ACKed and the one after them answered ERR. -/
def failing (n : Nat) : State := at' std 0 0 false 0xC (errAt n)

theorem ready_allAck (x : BitVec 8) (y : BitVec 2) (nl : Bool) (n : Nat) : AllAck (ready x y nl n) n := by
  intro j hj
  simp only [State.upcoming, ready, at', acks, List.getElem?_replicate, hj, if_true]

theorem failing_errAfter (n : Nat) : ErrAfter (failing n) n := by
  refine ⟨fun j hj => ?_, ?_⟩
  · have h : (errAt n)[j]? = some .ack := by
      rw [errAt, acks, List.getElem?_append_left (by simpa using hj), List.getElem?_replicate, if_pos hj]
    simp only [State.upcoming, failing, at', h]
  · have h : (errAt n)[n]? = some .err := by
      rw [errAt, acks, List.getElem?_append_right (by simp)]
      simp
    simp only [State.upcoming, failing, at', h]

theorem ready_boundary : Boundary (ready 19 3 true 48) := ⟨by decide, by decide, by decide, rfl⟩

theorem witness_ResetLeavesSpecValues : std.wf = true := by decide

theorem witness_ResetMeetsBoundary : (geometry 1 1).wf = true ∧ (geometry 4 20).wf = true := by decide

/-- A boundary state with a request, one with no request, and one with a word on the transport port. -/
theorem witness_StepKeepsBoundary :
    (Boundary { ready 19 3 true 48 with hostPort := [0x0300005A] }
        ∧ ∃ t, step { ready 19 3 true 48 with hostPort := [0x0300005A] } = .next t)
      ∧ (Boundary (ready 0 0 false 0) ∧ ∃ t, step (ready 0 0 false 0) = .next t)
      ∧ (Boundary { ready 0 0 false 4 with adapterPort := some 0x100028 }
        ∧ ∃ t, step { ready 0 0 false 4 with adapterPort := some 0x100028 } = .next t) :=
  ⟨⟨⟨by decide, by decide, by decide, rfl⟩, _, rfl⟩, ⟨⟨by decide, by decide, by decide, rfl⟩, _, rfl⟩,
    ⟨by decide, by decide, by decide, rfl⟩, _, rfl⟩

theorem witness_BoundaryNeverStops :
    Boundary { ready 19 3 true 48 with hostPort := [0xFF000041] }
      ∧ ({ ready 19 3 true 48 with hostPort := [0xFF000041] } : State).adapterPort = none :=
  ⟨⟨by decide, by decide, by decide, rfl⟩, rfl⟩

theorem witness_StepKeepsConfiguration : ∃ t, step { ready 0 0 false 4 with hostPort := [0x02000000] } = .next t := ⟨_, rfl⟩

/-- Each clause at the first value past its bound. -/
theorem witness_IllegalConfigurationRefused :
    ¬ ((3 : Nat) = 1 ∨ (3 : Nat) = 2 ∨ (3 : Nat) = 4)
      ∧ ¬ (1 ≤ (geometry 4 21).cols ∧ (geometry 4 21).cols ≤ if (geometry 4 21).rows = 4 then 20 else 40)
      ∧ ¬ (1 ≤ (geometry 2 41).cols ∧ (geometry 2 41).cols ≤ if (geometry 2 41).rows = 4 then 20 else 40)
      ∧ ¬ (0x20 ≤ ({ std with devAddr := 0x28 } : Configuration).devAddr
        ∧ ({ std with devAddr := 0x28 } : Configuration).devAddr ≤ 0x27)
      ∧ (∃ k v, (k, v) ∈ ({ std with charmapOverrides := [(0x7F, 1)] } : Configuration).charmapOverrides
        ∧ ¬ (0x80 ≤ k ∧ k ≤ 0x10FFFF))
      ∧ (∃ k v, (k, v) ∈ ({ std with charmapOverrides := [(0x80, 0x100)] } : Configuration).charmapOverrides ∧ ¬ v ≤ 0xFF)
      ∧ (∃ y < 4, ¬ (({ std with rowBase := ⟨0, 0x40, 0x14, 0x6D⟩ } : Configuration).rowBase.at y).toNat + 20 - 1 ≤ 0x7F)
      ∧ (∃ y < 4, ∃ z < 4, y ≠ z ∧ ∃ a b, a < 20 ∧ b < 20
        ∧ (({ std with rowBase := ⟨0, 0x40, 0x13, 0x54⟩ } : Configuration).rowBase.at y).toNat + a
          = (({ std with rowBase := ⟨0, 0x40, 0x13, 0x54⟩ } : Configuration).rowBase.at z).toNat + b)
      ∧ ¬ ({ std with tSettleUs := 2 ^ 20 } : Configuration).tSettleUs < 2 ^ 20 :=
  ⟨by decide, by decide, by decide, by decide, ⟨0x7F, 1, by decide, by decide⟩, ⟨0x80, 0x100, by decide, by decide⟩,
    ⟨3, by decide, by decide⟩, ⟨0, by decide, 2, by decide, by decide, 19, 0, by decide, by decide, by decide⟩, by decide⟩

theorem witness_DefaultConfigurationsLegal :
    ((1 : Nat) = 1 ∨ (1 : Nat) = 2 ∨ (1 : Nat) = 4) ∧ 1 ≤ 40 ∧ 40 ≤ (if (1 : Nat) = 4 then 20 else 40) ∧ 0x20 ≤ 0x20
      ∧ 0x20 ≤ 0x27 ∧ (2 : Nat) ^ 20 - 1 < 2 ^ 20 ∧ 20 ≤ (if (4 : Nat) = 4 then 20 else 40) := by decide

theorem witness_EncodeOfDecode :
    decodeRequest ⟨0x09000003, 0x1F1F0A00, 0x0000040E⟩ = .ok (.glyph 3 #v[0x00, 0x0A, 0x1F, 0x1F, 0x0E, 0x04, 0x00, 0x00])
      ∧ decodeRequest ⟨0x02000000, 7, 7⟩ = .ok .clear ∧ decodeTransport 0x300001 = .ok (.tSetbl true) := by decide

theorem witness_LegalWhenMaskMatches :
    (⟨"PUTCHAR", 0xFFE00000, 0x03000000⟩ : OpcodeRow) ∈ hostRows
      ∧ (⟨"PUTCHAR", 0xFFE00000, 0x03000000⟩ : OpcodeRow).covers (0x031FFFFF#32) = true
      ∧ (⟨"T.WAIT", 0xF00000, 0x400000⟩ : OpcodeRow) ∈ transportRows
      ∧ (⟨"T.WAIT", 0xF00000, 0x400000⟩ : OpcodeRow).covers (0x4FFFFF#24) = true := by decide

/-- A reserved opcode, and a GLYPH with a reserved bit, with a word after each. -/
theorem witness_UndecodableRequestIsInvalidOperation :
    std.wf = true ∧ takeRequest [0x0A000000, 0x01000000] = some (⟨0x0A000000, 0, 0⟩, [0x01000000])
      ∧ (∀ row ∈ hostRows, row.covers (0x0A000000#32) = false)
      ∧ takeRequest [0x09000100, 1, 2, 0x01000000] = some (⟨0x09000100, 1, 2⟩, [0x01000000])
      ∧ (∀ row ∈ hostRows, row.covers (0x09000100#32) = false)
      ∧ (ready 0 0 false 0).adapterPort = none ∧ (ready 0 0 false 0).seq = .idle := by decide

theorem witness_RequestWordsAreConsumedByLength :
    (ready 0 0 false 0).cfg.wf = true ∧ (ready 0 0 false 0).adapterPort = none ∧ (ready 0 0 false 0).seq = .idle
      ∧ (0x090000FF#32).extractLsb' 24 8 = 0x09#8 ∧ (0x0A000000#32).extractLsb' 24 8 ≠ 0x09#8
      ∧ (0x08000001#32).extractLsb' 24 8 ≠ 0x09#8 := by decide

/-- No word, and a GLYPH whose second payload word is not there. -/
theorem witness_IdleWaitsForAWholeRequest :
    (ready 0 0 false 0).cfg.wf = true ∧ (ready 0 0 false 0).adapterPort = none ∧ (ready 0 0 false 0).seq = .idle
      ∧ takeRequest (ready 0 0 false 0).hostPort = none ∧ takeRequest [0x09000003, 0x1F1F0A00] = none := by decide

theorem witness_StepRunsHostRequest :
    ({ ready 0 0 false 48 with hostPort := [0x09000003, 0x1F1F0A00, 0x0000040E] ++ [0x02000000] } : State).hostPort
        = [0x09000003, 0x1F1F0A00, 0x0000040E] ++ [0x02000000]
      ∧ (ready 0 0 false 48).cfg.wf = true ∧ (ready 0 0 false 48).adapterPort = none ∧ (ready 0 0 false 48).seq = .idle
      ∧ decode (.request [0x09000003, 0x1F1F0A00, 0x0000040E])
        = .ok (.glyph 3 #v[0x00, 0x0A, 0x1F, 0x1F, 0x0E, 0x04, 0x00, 0x00]) := by decide

theorem witness_StepRunsTransportWord :
    ({ ready 0 0 false 4 with adapterPort := some 0x100028 } : State).cfg.wf = true
      ∧ decode (.transport 0x100028) = .ok (.tWrcmd 0x28) := by decide

theorem witness_ReservedTransportWordRefused :
    ({ ready 0 0 false 0 with adapterPort := some 0x500000 } : State).cfg.wf = true
      ∧ (∀ row ∈ transportRows, row.covers (0x500000#24) = false)
      ∧ (∀ row ∈ transportRows, row.covers (0x300002#24) = false) := by decide

theorem witness_BusyPortAcceptsNothing :
    isHostRequest .clear = true ∧ ({ ready 0 0 false 4 with seq := .busy .init clearActs } : State).seq = .busy .init clearActs
      ∧ ∃ t, step { ready 0 0 false 4 with seq := .busy .init clearActs, hostPort := [0x02000000] } = .next t :=
  ⟨rfl, rfl, _, rfl⟩

theorem witness_StepByStepMatchesWholeOperation :
    ({ ready 7 2 true 4 with seq := .busy .clear clearActs } : State).cfg.wf = true
      ∧ ({ ready 7 2 true 4 with seq := .busy .clear clearActs } : State).adapterPort = none
      ∧ ({ ready 7 2 true 4 with seq := .busy .clear clearActs } : State).seq = .busy .clear clearActs := by decide

theorem witness_WriteInitNibbleSendsOnePulse :
    AllAck (ready 0 0 false 2) 2 ∧ ErrAfter (failing 0) 0 ∧ ErrAfter (failing 1) 1 :=
  ⟨ready_allAck 0 0 false 2, failing_errAfter 0, failing_errAfter 1⟩

theorem witness_WriteCommandSendsTwoPulsesThenWaits :
    AllAck (ready 0 0 false 4) 4 ∧ ErrAfter (failing 0) 0 ∧ ErrAfter (failing 3) 3 :=
  ⟨ready_allAck 0 0 false 4, failing_errAfter 0, failing_errAfter 3⟩

theorem witness_WriteDataSendsTwoPulsesThenSettles :
    AllAck (ready 0 0 false 4) 4 ∧ ErrAfter (failing 0) 0 ∧ ErrAfter (failing 3) 3 :=
  ⟨ready_allAck 0 0 false 4, failing_errAfter 0, failing_errAfter 3⟩

theorem witness_SetBacklightWritesFlagThenByte :
    (ready 0 0 false 1).upcoming 0 = .ack ∧ (failing 0).upcoming 0 = .err := ⟨rfl, rfl⟩

theorem witness_EveryByteCarriesBacklight :
    (∃ t, exec .init (ready 0 0 false 25) = .next t) ∧ ∃ t, exec (.tSetbl false) (failing 0) = .next t := ⟨⟨_, rfl⟩, _, rfl⟩

theorem witness_RegisterSelectMarksDataWrites :
    (isHostRequest (.tWrdata 0x48) = false ∧ ∃ t, exec (.tWrdata 0x48) (ready 0 0 false 4) = .next t)
      ∧ isHostRequest (.tWrcmd 0x28) = false ∧ ∃ t, exec (.tWrcmd 0x28) (ready 0 0 false 4) = .next t :=
  ⟨⟨rfl, _, rfl⟩, rfl, _, rfl⟩

theorem witness_AckedEventsAreFramed :
    AllAck (ready 0 0 false 40) 40 ∧ ∃ t, exec (.glyph 3 #v[0, 10, 31, 31, 14, 4, 0, 0]) (ready 0 0 false 40) = .next t :=
  ⟨ready_allAck 0 0 false 40, _, rfl⟩

/-- At IDLE with an ERR, in an operation with every write ACKed, and in an operation with an ERR at the last write. -/
theorem witness_TransportWordFrame :
    (isHostRequest (.tSetbl true) = false ∧ (failing 0).seq = .idle ∧ ∃ t, exec (.tSetbl true) (failing 0) = .next t)
      ∧ (AllAck { ready 0 0 false 4 with seq := .busy .clear homeCursor } (transportWrites (.tWrcmd 1))
        ∧ ∃ t, exec (.tWrcmd 1) { ready 0 0 false 4 with seq := .busy .clear homeCursor } = .next t)
      ∧ 3 < transportWrites (.tWrcmd 1) ∧ ErrAfter { failing 3 with seq := .busy .clear homeCursor } 3
      ∧ ({ failing 3 with seq := .busy .clear homeCursor } : State).seq ≠ .idle
      ∧ ∃ t, exec (.tWrcmd 1) { failing 3 with seq := .busy .clear homeCursor } = .next t :=
  ⟨⟨rfl, rfl, _, rfl⟩, ⟨fun j hj => ready_allAck 0 0 false 4 j hj, _, rfl⟩, by decide,
    ⟨fun j hj => (failing_errAfter 3).1 j hj, (failing_errAfter 3).2⟩, by decide, _, rfl⟩

/-- Both lengths of INIT, and an ERR at the first write, on each side of the write of FLAGS.D, and at the last write. -/
theorem witness_InitRunsPowerOnSequence :
    (ready 0 0 false 25).seq = .idle ∧ AllAck (ready 0 0 false 25) 25 ∧ ErrAfter (failing 0) 0 ∧ ErrAfter (failing 16) 16
      ∧ ErrAfter (failing 17) 17 ∧ ErrAfter (failing 24) 24
      ∧ AllAck (at' { std with initSwitchNibble := false } 0 0 false 0x8 (acks 23)) 23 :=
  ⟨rfl, ready_allAck 0 0 false 25, failing_errAfter 0, failing_errAfter 16, failing_errAfter 17, failing_errAfter 24,
    (fun j hj => ready_allAck 0 0 false 23 j hj)⟩

theorem witness_ClearHomesCursor :
    (ready 7 2 true 4).seq = .idle ∧ AllAck (ready 7 2 true 4) 4 ∧ (failing 0).seq = .idle ∧ ErrAfter (failing 0) 0
      ∧ ErrAfter (failing 3) 3 :=
  ⟨rfl, ready_allAck 7 2 true 4, rfl, failing_errAfter 0, failing_errAfter 3⟩

/-- The last legal cell, and the first column and the first row outside. -/
theorem witness_MovetoMovesThenCommands :
    (ready 0 0 false 4).seq = .idle ∧ (19 : BitVec 8).toNat < (ready 0 0 false 4).cfg.cols
      ∧ (3 : BitVec 8).toNat < (ready 0 0 false 4).cfg.rows ∧ AllAck (ready 0 0 false 4) 4 ∧ ErrAfter (failing 0) 0
      ∧ ErrAfter (failing 3) 3 ∧ (ready 0 0 false 4).cfg.cols ≤ (20 : BitVec 8).toNat
      ∧ (ready 0 0 false 4).cfg.rows ≤ (4 : BitVec 8).toNat :=
  ⟨rfl, by decide, by decide, ready_allAck 0 0 false 4, failing_errAfter 0, failing_errAfter 3, by decide, by decide⟩

/-- A character that wraps, one that is not in the map, and an ERR on each side of the advance. -/
theorem witness_PutcharWritesAndAdvances :
    (ready 19 3 false 8).seq = .idle ∧ (0x5A : Codepoint) ≠ 0x0A ∧ charMap std 0x5A = some 0x5A ∧ charMap std 0x100 = none
      ∧ AllAck (ready 19 3 false 8) 8 ∧ ErrAfter (failing 0) 0 ∧ ErrAfter (failing 3) 3 ∧ ErrAfter (failing 4) 4
      ∧ ErrAfter (failing 7) 7 :=
  ⟨rfl, by decide, by decide, by decide, ready_allAck 19 3 false 8, failing_errAfter 0, failing_errAfter 3, failing_errAfter 4,
    failing_errAfter 7⟩

theorem witness_LineFeedMovesToNextRow :
    (ready 7 3 false 4).seq = .idle ∧ (ready 7 3 false 4).impliedNl = false ∧ AllAck (ready 7 3 false 4) 4
      ∧ (failing 0).seq = .idle ∧ (failing 0).impliedNl = false ∧ ErrAfter (failing 0) 0 ∧ ErrAfter (failing 3) 3 :=
  ⟨rfl, rfl, ready_allAck 7 3 false 4, rfl, rfl, failing_errAfter 0, failing_errAfter 3⟩

theorem witness_SuppressedLineFeedOnlyClearsFlag : (ready 1 1 true 0).seq = .idle ∧ (ready 1 1 true 0).impliedNl = true := ⟨rfl, rfl⟩

theorem witness_SetblWritesBacklight :
    (ready 0 0 false 1).seq = .idle ∧ AllAck (ready 0 0 false 1) 1 ∧ (failing 0).seq = .idle ∧ (failing 0).upcoming 0 = .err :=
  ⟨rfl, ready_allAck 0 0 false 1, rfl, rfl⟩

theorem witness_SetdispWritesDisplayFlag :
    (ready 0 0 false 4).seq = .idle ∧ AllAck (ready 0 0 false 4) 4 ∧ ErrAfter (failing 0) 0 ∧ ErrAfter (failing 3) 3 :=
  ⟨rfl, ready_allAck 0 0 false 4, failing_errAfter 0, failing_errAfter 3⟩

theorem witness_SetcursorWritesCursorFlag :
    (ready 0 0 false 4).seq = .idle ∧ AllAck (ready 0 0 false 4) 4 ∧ ErrAfter (failing 0) 0 ∧ ErrAfter (failing 3) 3 :=
  ⟨rfl, ready_allAck 0 0 false 4, failing_errAfter 0, failing_errAfter 3⟩

theorem witness_SetblinkWritesBlinkFlag :
    (ready 0 0 false 4).seq = .idle ∧ AllAck (ready 0 0 false 4) 4 ∧ ErrAfter (failing 0) 0 ∧ ErrAfter (failing 3) 3 :=
  ⟨rfl, ready_allAck 0 0 false 4, failing_errAfter 0, failing_errAfter 3⟩

/-- The last legal slot and the first that is not. -/
theorem witness_GlyphUploadsThenRestoresAddress :
    (ready 5 1 false 40).seq = .idle ∧ (7 : BitVec 8).toNat ≤ 7 ∧ 7 < (8 : BitVec 8).toNat ∧ AllAck (ready 5 1 false 40) 40
      ∧ ErrAfter (failing 0) 0 ∧ ErrAfter (failing 39) 39 :=
  ⟨rfl, by decide, by decide, ready_allAck 5 1 false 40, failing_errAfter 0, failing_errAfter 39⟩

/-- A request that touches none of the named fields, and ones for which each clause's premise holds. -/
theorem witness_HostRequestFrame :
    (isHostRequest (.setbl true) = true ∧ ∃ t, exec (.setbl true) (ready 5 1 true 1) = .next t)
      ∧ (isHostRequest (.moveto 5 1) = true ∧ ∃ t, exec (.moveto 5 1) (ready 0 0 true 4) = .next t)
      ∧ isHostRequest (.putchar 0x48) = true ∧ ∃ t, exec (.putchar 0x48) (failing 5) = .next t :=
  ⟨⟨rfl, _, rfl⟩, ⟨rfl, _, rfl⟩, rfl, _, rfl⟩

theorem witness_RequestEndsWithOneAllowedStatus :
    isHostRequest (.putchar 0x0A) = true ∧ ∃ t, exec (.putchar 0x0A) (ready 0 1 true 0) = .next t := ⟨rfl, _, rfl⟩

theorem witness_ValidationErrorsHaveNoEffect :
    isHostRequest (.moveto 20 0) = true
      ∧ ∃ t, exec (.moveto 20 0) (ready 0 0 false 0) = .next t
        ∧ t.responses = (ready 0 0 false 0).responses ++ [.invalidPosition]
        ∧ Status.invalidPosition ≠ .ok ∧ Status.invalidPosition ≠ .transportError :=
  ⟨rfl, _, rfl, rfl, by decide, by decide⟩

/-- CLEAR with its fourth write answered ERR. -/
theorem witness_ErrCutsOperationAtThatWrite :
    isHostRequest .clear = true
      ∧ (∃ t, exec .clear { failing 3 with answers := List.replicate 40 .ack } = .next t
        ∧ t.trace = (failing 3).trace ++ [W 0x0C, W 0x08, W 0x1C, W 0x18, T 5000])
      ∧ ErrAfter (failing 3) 3 ∧ 3 < writeCount [W 0x0C, W 0x08, W 0x1C, W 0x18, T 5000] :=
  ⟨rfl, ⟨_, rfl, by decide⟩, failing_errAfter 3, by decide⟩

theorem witness_FlagOperationsAreIdempotent :
    (∃ v, Instr.setdisp false = .setdisp v) ∧ AllAck (ready 0 0 false 8) 8
      ∧ ∃ t, exec (.setdisp false) (ready 0 0 false 8) = .next t ∧ ∃ u, exec (.setdisp false) t = .next u :=
  ⟨⟨false, rfl⟩, ready_allAck 0 0 false 8, _, rfl, _, rfl⟩

/-- Two requests, the first of which fails at its third write. -/
theorem witness_BacklightPersistsOverRequests :
    (failing 2).cfg.wf = true ∧ (failing 2).seq = .idle ∧ (failing 2).bl = true
      ∧ (∀ i ∈ [Instr.clear, Instr.moveto 20 0], isHostRequest i = true ∧ i ≠ .setbl false)
      ∧ (hostRequests [.clear, .moveto 20 0] (failing 2)).map (fun r => r.1) = some [.transportError, .invalidPosition] := by
  decide

/-- A string that ends OK, and one that stops at its second character. -/
theorem witness_PutStringStopsAtFirstError :
    (∃ t, putString [0x48] (ready 0 0 false 8) = some ((.ok, 1), t))
      ∧ ∃ t, putString [0x48, 0x100, 0x49] (ready 0 0 false 8) = some ((.invalidCharacter, 1), t) := ⟨⟨_, rfl⟩, _, rfl⟩

theorem charMap_XY (c : Configuration) (h : c.charmapOverrides = []) :
    ∀ cp ∈ [(0x58 : Codepoint), 0x59], cp ≠ 0x0A ∧ charMap c cp ≠ none := by
  simp [charMap, h]

theorem witness_PutStringCursorArithmetic :
    Boundary (ready 18 0 false 16) ∧ (∀ cp ∈ [(0x58 : Codepoint), 0x59], cp ≠ 0x0A ∧ charMap (ready 18 0 false 16).cfg cp ≠ none)
      ∧ AllAck (ready 18 0 false 16) (8 * [(0x58 : Codepoint), 0x59].length) :=
  ⟨⟨by decide, by decide, by decide, rfl⟩, charMap_XY _ rfl, by
    rw [show 8 * [(0x58 : Codepoint), 0x59].length = 16 from rfl]
    exact ready_allAck 18 0 false 16⟩

/-- Two characters on a display of two columns. -/
theorem witness_WrapThenFeedIsWrapAlone :
    Boundary (at' (geometry 1 2) 0 0 false 0xC (acks 16)) ∧ (at' (geometry 1 2) 0 0 false 0xC (acks 16)).cursorX = 0
      ∧ [(0x58 : Codepoint), 0x59].length = (geometry 1 2).cols
      ∧ (∀ cp ∈ [(0x58 : Codepoint), 0x59], cp ≠ 0x0A ∧ charMap (geometry 1 2) cp ≠ none)
      ∧ AllAck (at' (geometry 1 2) 0 0 false 0xC (acks 16)) (8 * [(0x58 : Codepoint), 0x59].length) :=
  ⟨⟨by decide, by decide, by decide, rfl⟩, rfl, rfl, charMap_XY _ rfl, by
    rw [show 8 * [(0x58 : Codepoint), 0x59].length = 16 from rfl]
    exact fun j hj => ready_allAck 0 0 false 16 j hj⟩

theorem witness_GlyphThenPrintRestoresAddressFirst :
    Boundary (ready 5 1 false 48) ∧ AllAck (ready 5 1 false 48) 48
      ∧ ∃ t, exec (.glyph 3 #v[0, 10, 31, 31, 14, 4, 0, 0]) (ready 5 1 false 48) = .next t
        ∧ ∃ u, exec (.putchar 3) t = .next u :=
  ⟨⟨by decide, by decide, by decide, rfl⟩, ready_allAck 5 1 false 48, _, rfl, _, rfl⟩

/-- Both lengths of INIT, an ERR at the first write, on each side of the write of FLAGS.D and at the last write, an operation in
progress, and a configuration that fails a check. -/
theorem witness_ConstructResetsThenInits :
    (ready 0 0 false 25).seq = .idle ∧ (failing 0).seq = .idle ∧ std.wf = true
      ∧ ({ std with initSwitchNibble := false } : Configuration).wf = true
      ∧ AllAck (ready 0 0 false 25) 25 ∧ AllAck (ready 0 0 false 23) 23 ∧ ErrAfter (failing 0) 0 ∧ ErrAfter (failing 16) 16
      ∧ ErrAfter (failing 17) 17 ∧ ErrAfter (failing 24) 24 ∧ ErrAfter (failing 22) 22
      ∧ ({ ready 0 0 false 25 with seq := .busy .clear homeCursor } : State).seq ≠ .idle
      ∧ ({ std with tSettleUs := 2 ^ 20 } : Configuration).wf = false :=
  ⟨rfl, rfl, by decide, by decide, ready_allAck 0 0 false 25, ready_allAck 0 0 false 23, failing_errAfter 0, failing_errAfter 16,
    failing_errAfter 17, failing_errAfter 24, failing_errAfter 22, by decide, by decide⟩

/-- An illegal configuration, and a legal block in the middle of an operation; the one pseudo-instruction set apart, and another. -/
theorem witness_HostHasNoMoveOutsideTheModel :
    (at' (geometry 3 20) 0 0 false 0x8 []).cfg.wf = false
      ∧ ({ ready 0 0 false 4 with seq := .busy .clear homeCursor } : State).seq ≠ .idle
      ∧ Pseudo.putstr [0x48] ≠ .putstr [] ∧ Pseudo.construct ≠ .putstr [] := by decide

/-- A CONSTRUCT whose first write is answered ERR, CONSTRUCT and PUTSTR in a configuration with ROWS = 3, CONSTRUCT in the middle of an
operation, and a transport word from the host (00_scope.md R16, 70_reset_and_hazards.md R150, R155, 40_transport.md R83). -/
theorem test_construct_refused :
    (construct std (failing 0)).map (fun r => (r.1, r.2.trace)) = some (.transportError, [WErr 0x08])
      ∧ construct (geometry 3 20) (ready 0 0 false 25) = none
      ∧ putString [] (at' (geometry 3 20) 0 0 false 0x8 []) = none
      ∧ runPseudo .construct { ready 0 0 false 25 with seq := .busy .clear homeCursor } = none
      ∧ hostRequest (.tWait 0) (ready 0 0 false 0) = none := by decide

/-- Each clause at the edge of its range, in a configuration with one override. -/
theorem witness_CharMapLookup :
    ({ std with charmapOverrides := [(0x80, 0x01)] } : Configuration).wf = true ∧ (0x7F : Codepoint).toNat < 0x80
      ∧ ((0x80 : Codepoint).toNat, 0x01) ∈ ({ std with charmapOverrides := [(0x80, 0x01)] } : Configuration).charmapOverrides
      ∧ ((∀ g, ((0xFF : Codepoint).toNat, g) ∉ ({ std with charmapOverrides := [(0x80, 0x01)] } : Configuration).charmapOverrides)
        ∧ (0xFF : Codepoint).toNat < 0x100)
      ∧ ((∀ g, ((0x100 : Codepoint).toNat, g) ∉ ({ std with charmapOverrides := [(0x80, 0x01)] } : Configuration).charmapOverrides)
        ∧ 0x100 ≤ (0x100 : Codepoint).toNat)
      ∧ 0x110000 ≤ (0x110000 : Codepoint).toNat :=
  ⟨by decide, by decide, by decide, ⟨by simp, by decide⟩, ⟨by simp, by decide⟩, by decide⟩

theorem witness_DdramAddressesAreExactAndDistinct :
    std.wf = true ∧ 19 < std.cols ∧ 3 < std.rows ∧ ddramAddr std 19 3 = ddramAddr std 19 3 := by decide

theorem witness_CommandValues : (7 : BitVec 8).toNat ≤ 7 := by decide

/-- Five writes at times that keep every lower bound: the last one 5000 µs after the one before it has finished. -/
theorem witness_ClearHoldsBackTheNextWrite :
    (ready 0 0 false 4).seq = .idle ∧ AllAck (ready 0 0 false 4) 4
      ∧ ∃ t, exec .clear (ready 0 0 false 4) = .next t
        ∧ honours 0 (t.trace ++ [W 0x08]) [(0, 1), (1, 2), (2, 3), (3, 4), (5004, 5005)] :=
  ⟨rfl, ready_allAck 0 0 false 4, _, rfl, by decide, by decide, by decide, by decide, by decide, by decide, by decide, by decide,
    by decide, by decide, trivial⟩

end Sys2Proof.Tests
end

section
/-! PROOFS. The scope of the model (00_scope.md): which configurations are legal and what becomes of the others (R12, R16), where the
host has no move, and how the first ERR of the Transport ends an operation (R18, R91, R130). -/

namespace Sys2Proof

/-! ## Legal configurations -/

/-- The four bases of the default table as numbers; none of them wraps at 7 bits, since `0x40 + 40 < 0x80`. -/
theorem Config.defaultRowBase_at_toNat {cols : Nat} (h : cols ≤ 40) :
    ((defaultRowBase cols).at 0).toNat = 0 ∧ ((defaultRowBase cols).at 1).toNat = 0x40
      ∧ ((defaultRowBase cols).at 2).toNat = cols ∧ ((defaultRowBase cols).at 3).toNat = 0x40 + cols :=
  ⟨rfl, rfl, Nat.mod_eq_of_lt (by omega), Nat.mod_eq_of_lt (by omega)⟩

/-- Every row of the default table ends inside DDRAM: a display of four rows has at most 20 columns. -/
theorem Config.defaultRowBase_fits {rows cols y : Nat} (hrows : rows = 1 ∨ rows = 2 ∨ rows = 4)
    (hcols : cols ≤ if rows = 4 then 20 else 40) (hy : y < rows) :
    ((defaultRowBase cols).at y).toNat + cols - 1 ≤ 0x7F := by
  obtain ⟨h0, h1, h2, h3⟩ := defaultRowBase_at_toNat (cols := cols) (by split at hcols <;> omega)
  have hy4 : y < 4 := by omega
  interval_cases y <;> split at hcols <;> omega

/-- Of any two rows of the default table, one ends before the other begins: rows 0 and 2 lie below 0x40, rows 1 and 3 from there. -/
theorem Config.defaultRowBase_disjoint {rows cols y z : Nat} (hrows : rows = 1 ∨ rows = 2 ∨ rows = 4)
    (hcols : cols ≤ if rows = 4 then 20 else 40) (hy : y < rows) (hz : z < rows) :
    y = z ∨ ((defaultRowBase cols).at y).toNat + cols ≤ ((defaultRowBase cols).at z).toNat
      ∨ ((defaultRowBase cols).at z).toNat + cols ≤ ((defaultRowBase cols).at y).toNat := by
  obtain ⟨h0, h1, h2, h3⟩ := defaultRowBase_at_toNat (cols := cols) (by split at hcols <;> omega)
  have hy4 : y < 4 := by omega
  have hz4 : z < 4 := by omega
  interval_cases y <;> interval_cases z <;> split at hcols <;> omega

/-- A configuration whose rows share a DDRAM address is not legal. -/
theorem Configuration.Legal.no_shared_address {c : Configuration} (h : c.Legal) {y z a b : Nat} (hy : y < c.rows)
    (hz : z < c.rows) (hyz : y ≠ z) (ha : a < c.cols) (hb : b < c.cols) :
    (c.rowBase.at y).toNat + a ≠ (c.rowBase.at z).toNat + b := by
  have := h.disjoint y hy z hz
  omega

namespace Machine

/-- Settles O7: the override map is empty, and the two checks that read the row table are the lemmas above. -/
theorem defaultConfigurationsLegal : Obligations.DefaultConfigurationsLegal := by
  intro rows cols dev ts hrows hpos hcols hdev hdev' hts
  refine (Configuration.wf_iff _).2
    { rows := hrows
      cols := ⟨hpos, hcols⟩
      addr := ⟨hdev, hdev'⟩
      keys := fun _ hkv => absurd hkv List.not_mem_nil
      values := fun _ hkv => absurd hkv List.not_mem_nil
      fits := fun _ hy => Config.defaultRowBase_fits hrows hcols hy
      disjoint := fun _ hy _ hz => Config.defaultRowBase_disjoint hrows hcols hy hz
      settle := hts
      canonical := List.Pairwise.nil }

theorem step_of_not_legal {s : State} (h : ¬ s.cfg.Legal) : step s = .refused .illegalConfiguration :=
  if_neg (mt (Configuration.wf_iff _).1 h)

/-- Settles O6: each clause contradicts one field of `Configuration.Legal`. -/
theorem illegalConfigurationRefused : Obligations.IllegalConfigurationRefused := by
  intro s hbroken
  refine step_of_not_legal fun hl => ?_
  rcases hbroken with h | h | h | ⟨k, v, hm, h⟩ | ⟨k, v, hm, h⟩ | ⟨y, hy, h⟩ | ⟨y, hy, z, hz, hyz, a, b, ha, hb, h⟩ | h
  · exact h hl.rows
  · exact h hl.cols
  · exact h hl.addr
  · exact h (hl.keys _ hm)
  · exact h (hl.values _ hm)
  · exact h (hl.fits y hy)
  · exact hl.no_shared_address hy hz hyz ha hb h
  · exact h hl.settle

/-! ## Where the host has no move -/

/-- Where no request is answered no sequence is, but for the empty one in a legal configuration. -/
theorem hostSequence_of_no_request {s : State} (h : ∀ i, hostRequest i s = none) {is : List Instr}
    (hne : s.cfg.wf = false ∨ is ≠ []) : hostSequence is s = none := by
  cases is with
  | nil =>
    have hwf : s.cfg.wf = false := hne.resolve_right (· rfl)
    simp [hostSequence, hwf]
  | cons i is => simp [hostSequence, h i]

theorem expansion_ne_nil {p : Pseudo} (h : p ≠ .putstr []) : p.expansion ≠ [] := by
  cases p with
  | putstr cps => simpa [Pseudo.expansion] using h
  | _ => exact List.cons_ne_nil _ _

/-- Every pseudo-instruction but CONSTRUCT is the sequence it expands to (R81). -/
theorem runPseudo_of_ne_construct {p : Pseudo} (h : p ≠ .construct) (s : State) :
    runPseudo p s = hostSequence p.expansion s := by
  cases p with
  | construct => exact absurd rfl h
  | _ => rfl

theorem runPseudo_construct_of_no_reset {s : State} (h : powerOn s.cfg s = none) : runPseudo .construct s = none := by
  simp [runPseudo, h]

/-- In an illegal configuration, or while an operation is in progress, the block answers no request and takes no reset. -/
theorem no_request_and_no_reset {s : State} (h : s.cfg.wf = false ∨ s.seq ≠ .idle) :
    (∀ i, hostRequest i s = none) ∧ powerOn s.cfg s = none := by
  rcases h with hwf | hseq
  · exact ⟨hostRequest_of_illegal hwf, powerOn_illegal s hwf⟩
  · cases hq : s.seq with
    | idle => exact absurd hq hseq
    | busy op k => exact ⟨hostRequest_of_busy hq, powerOn_busy hq s.cfg⟩

/-- Settles O57: CONSTRUCT has no reset to start from, and every other pseudo-instruction is a sequence of requests. -/
theorem hostHasNoMoveOutsideTheModel : Obligations.HostHasNoMoveOutsideTheModel := by
  intro s hs
  obtain ⟨hreq, hreset⟩ := no_request_and_no_reset hs
  refine ⟨hreq, fun p hp => ?_⟩
  by_cases hc : p = .construct
  · rw [hc, runPseudo_construct_of_no_reset hreset]
  · rw [runPseudo_of_ne_construct hc, hostSequence_of_no_request hreq (hp.imp_right expansion_ne_nil)]

/-! ## The first ERR ends an operation -/

/-- The events of a list of statements depend on the configuration and FLAGS alone. -/
theorem planEvents_congr {s t : State} (hc : t.cfg = s.cfg) (hf : t.flags = s.flags) (k : List Act) :
    planEvents k t = planEvents k s := by
  induction k generalizing s t with
  | nil => rfl
  | cons a k ih =>
    have hc' : (a.planned t).cfg = (a.planned s).cfg :=
      (a.planned_frame t).1.trans (hc.trans (a.planned_frame s).1.symm)
    have hf' : (a.planned t).flags = (a.planned s).flags := by
      cases a with
      | issue p => cases p <;> simp [Act.planned, Prim.entry, hf]
      | _ => simp [Act.planned, hf]
    rw [planEvents, planEvents, Act.events_congr hc hf, ih hc' hf']

theorem planEvents_withAnswers (s : State) (as : List Answer) (k : List Act) :
    planEvents k { s with answers := as } = planEvents k s :=
  planEvents_congr (s := s) (t := { s with answers := as }) rfl rfl k

/-- What a request does is settled before the Transport answers. -/
theorem requestPlan_withAnswers (s : State) (as : List Answer) (i : Instr) :
    requestPlan { s with answers := as } i = requestPlan s i := by
  cases i <;> rfl

theorem allAck_replicate (s : State) (n : Nat) : AllAck { s with answers := List.replicate n .ack } n := by
  intro j hj
  simp [State.upcoming, hj]

/-- A request that answers a next state with events when its writes are all ACKed was taken at IDLE and not rejected, and its events are
those of the list of statements it also runs under the answers of `s`; forty answers are enough for any request. -/
theorem exec_request_replicate_ack {i : Instr} (hi : isHostRequest i = true) {s t : State} {es : List Event}
    (h : exec i { s with answers := List.replicate 40 .ack } = .next t) (htr : t.trace = s.trace ++ es)
    (hes : es ≠ []) : s.seq = .idle ∧ ∃ k, requestPlan s i = .ok k ∧ es = planEvents k s := by
  obtain ⟨hq, ⟨e, -, rfl⟩ | ⟨k, hk, -, rfl⟩ | ⟨k, n, hk, hn, he, -⟩⟩ := exec_request_cases hi h
  · exact absurd (by simpa using htr) hes
  · refine ⟨hq, k, (requestPlan_withAnswers ..).symm.trans hk, ?_⟩
    obtain ⟨-, -, htrace, -⟩ := planState_frame k { s with answers := List.replicate 40 .ack }
    rw [State.complete_trace, State.observed_trace, htrace, planEvents_withAnswers] at htr
    exact (List.append_cancel_left htr).symm
  · exact ((allAck_replicate s 40).not_errAfter he (by have := writeCount_plan_le hk; omega)).elim

/-- Settles O44: both runs are of one list of statements, whose events do not depend on the answers (`exec_request_replicate_ack`), and
the second one stops at its first ERR (`perform_err`). -/
theorem errCutsOperationAtThatWrite : Obligations.ErrCutsOperationAtThatWrite := by
  intro i s t es j hi hrun htr herr hj
  have hes : es ≠ [] := by rintro rfl; simp at hj
  obtain ⟨hq, k, hk, rfl⟩ := exec_request_replicate_ack hi hrun htr hes
  obtain ⟨-, -, htrace, -, -, -, -, hresp⟩ := planStateAt_frame j k s
  refine ⟨_, by rw [exec_request hi, hk]; exact perform_err hq i k herr hj, ?_, ?_, rfl⟩
  · simp [htrace]
  · simp [hresp]

end Machine

end Sys2Proof
end

section
/-! PROOFS. The state of the block (10_state.md): reset (R34), the invariants at an operation boundary (R31), which request writes which
field (R35), and an operation run one statement at a time (R30). -/

namespace Sys2Proof.Machine

open Sys2Proof

/-! ## One step -/

theorem step_of_wf {s : State} (hwf : s.cfg.wf = true) : step s = stepSequencer s :=
  if_pos hwf

theorem step_transport {s : State} (hwf : s.cfg.wf = true) {w : TransportWord} (hport : s.adapterPort = some w) :
    step s = stepTransport w s := by
  simp only [step_of_wf hwf, stepSequencer, hport]

theorem step_busy {s : State} (hwf : s.cfg.wf = true) (hport : s.adapterPort = none) {op : Instr} {k : List Act}
    (hseq : s.seq = .busy op k) : step s = .next (advance op k s) := by
  simp only [step_of_wf hwf, stepSequencer, hport, hseq]

theorem step_idle {s : State} (hwf : s.cfg.wf = true) (hport : s.adapterPort = none) (hseq : s.seq = .idle) :
    step s = stepRequest s := by
  simp only [step_of_wf hwf, stepSequencer, hport, hseq]

theorem stepTransport_of_decode {w : TransportWord} {i : Instr} (hd : decodeTransport w = .ok i) (s : State) :
    stepTransport w s = exec i (s.withAdapterPort none) := by
  simp only [stepTransport, hd]

theorem stepRequest_of_decode {s : State} {r : RawRequest} {after : List RequestWord} {i : Instr}
    (ht : takeRequest s.hostPort = some (r, after)) (hd : decodeRequest r = .ok i) :
    stepRequest s = exec i (s.withHostPort after) := by
  simp only [stepRequest, ht, hd]

theorem stepRequest_of_reject {s : State} {r : RawRequest} {after : List RequestWord} {e : Reject}
    (ht : takeRequest s.hostPort = some (r, after)) (hd : decodeRequest r = .error e) :
    stepRequest s = reject .invalidOperation (s.withHostPort after) := by
  simp only [stepRequest, ht, hd]

theorem stepRequest_of_no_request {s : State} (ht : takeRequest s.hostPort = none) : stepRequest s = .next s := by
  simp only [stepRequest, ht]

/-- Everything a step from IDLE can do: it runs an instruction from one of the ports, turns a request away as undecodable, or waits. -/
theorem step_idle_cases {s t : State} (hseq : s.seq = .idle) (h : step s = .next t) :
    (∃ i, exec i (s.withAdapterPort none) = .next t)
      ∨ (∃ i after, exec i (s.withHostPort after) = .next t)
      ∨ (∃ after, t = (s.withHostPort after).complete .invalidOperation)
      ∨ t = s := by
  by_cases hwf : s.cfg.wf = true
  · cases hport : s.adapterPort with
    | some w =>
      rw [step_transport hwf hport] at h
      cases hd : decodeTransport w with
      | ok i => exact .inl ⟨i, (stepTransport_of_decode hd s).symm.trans h⟩
      | error e => simp only [stepTransport, hd] at h; cases h
    | none =>
      rw [step_idle hwf hport hseq] at h
      cases ht : takeRequest s.hostPort with
      | none =>
        rw [stepRequest_of_no_request ht] at h
        cases h
        exact .inr (.inr (.inr rfl))
      | some taken =>
        obtain ⟨r, after⟩ := taken
        cases hd : decodeRequest r with
        | ok i => exact .inr (.inl ⟨i, after, (stepRequest_of_decode ht hd).symm.trans h⟩)
        | error e =>
          rw [stepRequest_of_reject ht hd, reject_idle (s := s.withHostPort after) hseq] at h
          cases h
          exact .inr (.inr (.inl ⟨after, rfl⟩))
  · rw [step, if_neg hwf] at h
    cases h

/-! ## Reset -/

theorem resetWith_flags (c : Configuration) :
    (State.resetWith c).bl = true ∧ (State.resetWith c).d = false ∧ (State.resetWith c).c = false
      ∧ (State.resetWith c).b = false := by
  simp [State.bl, State.d, State.c, State.b, State.resetWith]

theorem resetWith_boundary {c : Configuration} (hc : c.wf = true) : Boundary (State.resetWith c) :=
  { legal := hc
    column := ((Configuration.wf_iff c).1 hc).cols_pos
    row := ((Configuration.wf_iff c).1 hc).rows_pos
    idle := rfl }

/-- Settles O2: row 0 and column 0 exist in every legal configuration. -/
theorem resetMeetsBoundary : Obligations.ResetMeetsBoundary :=
  ⟨fun _ hc => resetWith_boundary hc, resetWith_boundary (c := Config.standard) (by decide)⟩

/-- Settles O1: the fields are those of `State.resetWith`, and with both ports empty a step waits. -/
theorem resetLeavesSpecValues : Obligations.ResetLeavesSpecValues := by
  intro c
  have hwaits : c.wf = true → step (State.resetWith c) = .next (State.resetWith c) := fun hc =>
    (step_idle (s := State.resetWith c) hc rfl rfl).trans (stepRequest_of_no_request rfl)
  obtain ⟨hbl, hd, hcur, hb⟩ := resetWith_flags c
  exact ⟨rfl, rfl, rfl, hbl, hd, hcur, hb, rfl, rfl, rfl, rfl, hwaits⟩

/-! ## A step runs the decoded request -/

/-- Words behind a whole request stay on the port. -/
theorem takeRequest_append {words rest : List RequestWord} {r : RawRequest} (h : takeRequest words = some (r, rest))
    (after : List RequestWord) : takeRequest (words ++ after) = some (r, rest ++ after) := by
  match words with
  | [] => cases h
  | w :: tail =>
    simp only [List.cons_append, takeRequest] at h ⊢
    split at h
    · rename_i hlen
      rw [if_pos hlen]
      match tail with
      | [] => cases h
      | [_] => cases h
      | _ :: _ :: _ => cases h; rfl
    · rename_i hlen
      rw [if_neg hlen]
      cases h
      rfl

theorem decode_request_eq_ok {words : List RequestWord} {i : Instr} (h : decode (.request words) = .ok i) :
    ∃ r, takeRequest words = some (r, []) ∧ decodeRequest r = .ok i := by
  simp only [decode] at h
  split at h
  · cases h
  · rename_i r ht
    exact ⟨r, ht, h⟩
  · cases h

/-- Settles O15: the decoder takes exactly the words of the request (`takeRequest_append`). -/
theorem stepRunsHostRequest : Obligations.StepRunsHostRequest := by
  intro s words after i hwf hport hseq hwords hd
  obtain ⟨r, ht, hr⟩ := decode_request_eq_ok hd
  have htake : takeRequest s.hostPort = some (r, after) := by rw [hwords]; exact takeRequest_append ht after
  rw [step_idle hwf hport hseq, stepRequest_of_decode htake hr]

/-! ## What a request can write -/

/-- Past its last write the operation has made all its state writes. -/
theorem planStateAt_writeCount (k : List Act) (s : State) :
    planStateAt (writeCount (planEvents k s)) k s = planState k s := by
  have h := planStateAt_append_right (n := writeCount (planEvents k s)) [] (Nat.le_refl _)
  simpa [planStateAt] using h

/-- Whatever the Transport answers, the end of a host request is a state its list of statements passes through (the state it was taken
in, when it is rejected), but for the events and the status. -/
theorem exec_request_end {i : Instr} (hi : isHostRequest i = true) {s t : State} (h : exec i s = .next t) :
    ∃ u es st, t = (u.observed es).complete st
      ∧ (u = s ∨ ∃ k n, requestPlan s i = .ok k ∧ u = planStateAt n k s) := by
  obtain ⟨-, ⟨e, -, rfl⟩ | ⟨k, hk, -, rfl⟩ | ⟨k, n, hk, -, -, rfl⟩⟩ := exec_request_cases hi h
  · exact ⟨s, [], e, by rw [observed_nil], .inl rfl⟩
  · exact ⟨planState k s, _, _, rfl, .inr ⟨k, _, hk, (planStateAt_writeCount k s).symm⟩⟩
  · exact ⟨planStateAt n k s, _, _, rfl, .inr ⟨k, n, hk, rfl⟩⟩

theorem planned_cursorX {a : Act} (h : ∀ x, a ≠ .setCursorX x) (s : State) : (a.planned s).cursorX = s.cursorX := by
  cases a with
  | issue p => obtain ⟨hx, -⟩ := entry_frame p s; exact hx
  | setCursorX x => exact absurd rfl (h x)
  | _ => rfl

theorem planned_cursorY {a : Act} (h : ∀ y, a ≠ .setCursorY y) (s : State) : (a.planned s).cursorY = s.cursorY := by
  cases a with
  | issue p => obtain ⟨-, hy, -⟩ := entry_frame p s; exact hy
  | setCursorY y => exact absurd rfl (h y)
  | _ => rfl

theorem planned_impliedNl {a : Act} (h : ∀ v, a ≠ .setImpliedNl v) (s : State) :
    (a.planned s).impliedNl = s.impliedNl := by
  cases a with
  | issue p => obtain ⟨-, -, hnl, -⟩ := entry_frame p s; exact hnl
  | setImpliedNl v => exact absurd rfl (h v)
  | _ => rfl

theorem planned_d {a : Act} (h : ∀ v, a ≠ .setD v) (s : State) : (a.planned s).d = s.d := by
  cases a with
  | issue p => obtain ⟨-, -, -, hd, -⟩ := entry_frame p s; exact hd
  | setD v => exact absurd rfl (h v)
  | setC v => exact s.writeC_d v
  | setB v => exact s.writeB_d v
  | _ => rfl

theorem planned_c {a : Act} (h : ∀ v, a ≠ .setC v) (s : State) : (a.planned s).c = s.c := by
  cases a with
  | issue p => obtain ⟨-, -, -, -, hc, -⟩ := entry_frame p s; exact hc
  | setC v => exact absurd rfl (h v)
  | setD v => exact s.writeD_c v
  | setB v => exact s.writeB_c v
  | _ => rfl

theorem planned_b {a : Act} (h : ∀ v, a ≠ .setB v) (s : State) : (a.planned s).b = s.b := by
  cases a with
  | issue p => obtain ⟨-, -, -, -, -, hb⟩ := entry_frame p s; exact hb
  | setB v => exact absurd rfl (h v)
  | setD v => exact s.writeD_b v
  | setC v => exact s.writeC_b v
  | _ => rfl

section frame

variable {i : Instr} (hi : isHostRequest i = true) {s t : State} (h : exec i s = .next t)
include hi h

/-- What no host request touches, and where it ends. -/
theorem exec_request_frame :
    t.cfg = s.cfg ∧ t.hostPort = s.hostPort ∧ t.adapterPort = s.adapterPort ∧ t.seq = .idle := by
  obtain ⟨u, es, st, rfl, rfl | ⟨k, n, -, rfl⟩⟩ := exec_request_end hi h
  · exact ⟨rfl, rfl, rfl, rfl⟩
  · obtain ⟨hcfg, -, -, hhost, hadapter, -⟩ := planStateAt_frame n k s
    exact ⟨hcfg, hhost, hadapter, rfl⟩

/-- A field that every statement of a host request's list keeps, the request keeps, if neither events nor a status touch the field. -/
theorem exec_request_keeps {α : Type} (field : State → α)
    (hend : ∀ u es st, field ((u.observed es).complete st) = field u)
    (hplan : ∀ k, requestPlan s i = .ok k → ∀ a ∈ k, ∀ u, field u = field s → field (a.planned u) = field u) :
    field t = field s := by
  obtain ⟨u, es, st, rfl, rfl | ⟨k, n, hk, rfl⟩⟩ := exec_request_end hi h
  · exact hend _ es st
  · refine (hend _ es st).trans (planStateAt_induct (P := fun u => field u = field s) rfl (fun a ha u hu => ?_) n)
    exact (hplan k hk a ha u hu).trans hu

theorem exec_request_cursor (hinit : i ≠ .init) (hclear : i ≠ .clear) (hmoveto : ∀ col row, i ≠ .moveto col row)
    (hputchar : ∀ cp, i ≠ .putchar cp) : t.cursorX = s.cursorX ∧ t.cursorY = s.cursorY := by
  constructor
  · refine exec_request_keeps hi h State.cursorX (fun _ _ _ => rfl) fun k hk a ha u _ => planned_cursorX ?_ u
    exact ((mem_requestPlan hk ha).1 hinit hclear hmoveto hputchar).1
  · refine exec_request_keeps hi h State.cursorY (fun _ _ _ => rfl) fun k hk a ha u _ => planned_cursorY ?_ u
    exact ((mem_requestPlan hk ha).1 hinit hclear hmoveto hputchar).2

theorem exec_request_impliedNl (hinit : i ≠ .init) (hclear : i ≠ .clear) (hputchar : ∀ cp, i ≠ .putchar cp) :
    t.impliedNl = s.impliedNl := by
  refine exec_request_keeps hi h State.impliedNl (fun _ _ _ => rfl) fun k hk a ha u _ => planned_impliedNl ?_ u
  obtain ⟨-, hnl, -⟩ := mem_requestPlan hk ha
  exact hnl hinit hclear hputchar

/-- INIT issues T.SETBL too, but with the value FLAGS.BL has (R99). -/
theorem exec_request_bl (hsetbl : ∀ v, i ≠ .setbl v) : t.bl = s.bl := by
  refine exec_request_keeps hi h State.bl (fun _ _ _ => rfl) fun k hk a ha u hu => planned_bl a u fun v hv => ?_
  obtain ⟨-, -, hnone, hsame, -⟩ := mem_requestPlan hk ha
  by_cases hinit : i = .init
  · exact (hsame hinit v hv).trans hu.symm
  · exact absurd hv (hnone hinit hsetbl v)

theorem exec_request_d (hinit : i ≠ .init) (hsetdisp : ∀ v, i ≠ .setdisp v) : t.d = s.d := by
  refine exec_request_keeps hi h State.d (fun _ _ _ => rfl) fun k hk a ha u _ => planned_d ?_ u
  obtain ⟨-, -, -, -, hd, -⟩ := mem_requestPlan hk ha
  exact hd hinit hsetdisp

theorem exec_request_c (hsetcursor : ∀ v, i ≠ .setcursor v) : t.c = s.c := by
  refine exec_request_keeps hi h State.c (fun _ _ _ => rfl) fun k hk a ha u _ => planned_c ?_ u
  obtain ⟨-, -, -, -, -, hc, -⟩ := mem_requestPlan hk ha
  exact hc hsetcursor

theorem exec_request_b (hsetblink : ∀ v, i ≠ .setblink v) : t.b = s.b := by
  refine exec_request_keeps hi h State.b (fun _ _ _ => rfl) fun k hk a ha u _ => planned_b ?_ u
  obtain ⟨-, -, -, -, -, -, hb⟩ := mem_requestPlan hk ha
  exact hb hsetblink

end frame

/-- Settles O41, field by field: no statement of the request's list writes the field (`mem_requestPlan`). -/
theorem hostRequestFrame : Obligations.HostRequestFrame := by
  intro i s t hi h
  obtain ⟨hcfg, hhost, hadapter, hseq⟩ := exec_request_frame hi h
  exact ⟨hcfg, hhost, hadapter, hseq, exec_request_cursor hi h, exec_request_impliedNl hi h, exec_request_bl hi h,
    exec_request_d hi h, exec_request_c hi h, exec_request_b hi h⟩

/-! ## The cursor stays on the display -/

/-- The cursor is on a cell of the display (R31). -/
def State.OnDisplay (s : State) : Prop :=
  s.cursorX.toNat < s.cfg.cols ∧ s.cursorY.toNat < s.cfg.rows

theorem Boundary.onDisplay {s : State} (h : Boundary s) : s.OnDisplay := ⟨h.column, h.row⟩

/-- A statement that writes the cursor, if it does, with a value on the display. -/
def Act.InRange (c : Configuration) : Act → Prop
  | .setCursorX x => x.toNat < c.cols
  | .setCursorY y => y.toNat < c.rows
  | .issue _ | .setImpliedNl _ | .setD _ | .setC _ | .setB _ => True

theorem Act.inRange_of_ne {a : Act} (hx : ∀ x, a ≠ .setCursorX x) (hy : ∀ y, a ≠ .setCursorY y) (c : Configuration) :
    a.InRange c := by
  cases a with
  | setCursorX x => exact absurd rfl (hx x)
  | setCursorY y => exact absurd rfl (hy y)
  | _ => trivial

theorem planned_onDisplay {a : Act} {s : State} (ha : a.InRange s.cfg) (hs : s.OnDisplay) : (a.planned s).OnDisplay := by
  cases a with
  | setCursorX x => exact ⟨ha, hs.2⟩
  | setCursorY y => exact ⟨hs.1, ha⟩
  | issue p => cases p <;> exact hs
  | _ => exact hs

/-- Statements that are all in range keep the cursor on the display, wherever the first ERR cuts them. -/
theorem planStateAt_onDisplay {k : List Act} {s : State} (hs : s.OnDisplay) (hk : ∀ a ∈ k, a.InRange s.cfg) (n : Nat) :
    (planStateAt n k s).OnDisplay := by
  have h := planStateAt_induct (P := fun u => u.cfg = s.cfg ∧ u.OnDisplay) (k := k) ⟨rfl, hs⟩ ?_ n
  · exact h.2
  · intro a ha u ⟨hcfg, hu⟩
    exact ⟨(a.planned_frame u).1.trans hcfg, planned_onDisplay (hcfg ▸ hk a ha) hu⟩

theorem homeCursor_inRange {c : Configuration} (hc : c.Legal) : ∀ a ∈ homeCursor, a.InRange c := by
  simp [homeCursor, Act.InRange, hc.cols_pos, hc.rows_pos]

theorem clearActs_inRange {c : Configuration} (hc : c.Legal) : ∀ a ∈ clearActs, a.InRange c := by
  simpa [clearActs, Act.InRange] using homeCursor_inRange hc

theorem initActs_inRange {s : State} (hc : s.cfg.Legal) : ∀ a ∈ initActs s, a.InRange s.cfg := by
  have hhandshake : ∀ a ∈ initHandshake s, a.InRange s.cfg := by
    unfold initHandshake
    split <;> simp [Act.InRange]
  rw [initActs, List.forall_mem_append, List.forall_mem_append]
  exact ⟨⟨hhandshake, by simp [issueDctl, Act.InRange]⟩, homeCursor_inRange hc⟩

theorem movetoActs_inRange {c : Configuration} {col row : BitVec 8} (hcol : col.toNat < c.cols)
    (hrow : row.toNat < c.rows) : ∀ a ∈ movetoActs c col row, a.InRange c := by
  have hrow' : row.toNat % 4 < c.rows := Nat.lt_of_le_of_lt (Nat.mod_le _ _) hrow
  simp [movetoActs, syncAddr, Act.InRange, hcol, hrow']

/-- In steps 3 to 5 of PUTCHAR the state writes all come before the one command. -/
theorem planStateAt_wrap (n : Nat) (s : State) (x y : Nat) (isLineFeed : Bool) :
    planStateAt n (wrapActs s.cfg x y isLineFeed) s = wrapped s x y isLineFeed := by
  unfold wrapActs wrapped
  split <;> split <;> simp [planStateAt]

/-- Steps 3 and 4 of PUTCHAR bring a cursor that step 1 or 2 moved to any column back on the display (R104). -/
theorem wrapped_onDisplay {s : State} (hc : s.cfg.Legal) (hs : s.OnDisplay) (x : Nat) (isLineFeed : Bool) :
    (wrapped (s.withCursorX (BitVec.ofNat 8 x)) x s.cursorY.toNat isLineFeed).OnDisplay := by
  have hcols := hc.cols_pos
  have hrows := hc.rows_pos
  have hrows' := hc.rows_le
  have hrow := hs.2
  unfold wrapped stepRow
  by_cases hwrap : x ≥ s.cfg.cols
  · by_cases hlast : s.cursorY.toNat + 1 ≥ s.cfg.rows
    · simp [State.OnDisplay, hwrap, hlast, hcols, hrows]
    · have hmod : (s.cursorY.toNat + 1) % 4 = s.cursorY.toNat + 1 := Nat.mod_eq_of_lt (by omega)
      simp [State.OnDisplay, hwrap, hlast, hcols, hmod]
      omega
  · have hcol : x % 256 < s.cfg.cols := Nat.lt_of_le_of_lt (Nat.mod_le _ _) (Nat.not_le.1 hwrap)
    simp [State.OnDisplay, hwrap, Nat.not_le.2 hrow, hcol, hrow]

/-- PUTCHAR moves the cursor off the display between step 1 or 2 and step 3, but no event falls there (R102, R104). -/
theorem planStateAt_moveThenWrap_onDisplay {s : State} (hc : s.cfg.Legal) (hs : s.OnDisplay) (x : Nat)
    (isLineFeed : Bool) (n : Nat) :
    (planStateAt n (.setCursorX (BitVec.ofNat 8 x) :: wrapActs s.cfg x s.cursorY.toNat isLineFeed) s).OnDisplay := by
  have hplan : planStateAt n (.setCursorX (BitVec.ofNat 8 x) :: wrapActs s.cfg x s.cursorY.toNat isLineFeed) s
      = wrapped (s.withCursorX (BitVec.ofNat 8 x)) x s.cursorY.toNat isLineFeed :=
    planStateAt_wrap n (s.withCursorX (BitVec.ofNat 8 x)) _ _ _
  rw [hplan]
  exact wrapped_onDisplay hc hs x isLineFeed

theorem planStateAt_lineFeed_onDisplay {s : State} (hc : s.cfg.Legal) (hs : s.OnDisplay) (n : Nat) :
    (planStateAt n (lineFeedActs s) s).OnDisplay :=
  planStateAt_moveThenWrap_onDisplay hc hs _ true n

theorem planStateAt_character_onDisplay {s : State} (hc : s.cfg.Legal) (hs : s.OnDisplay) (g : Byte) (n : Nat) :
    (planStateAt n (characterActs g s) s).OnDisplay := by
  rw [characterActs, planStateAt, planned_wrData]
  split
  · exact hs
  · exact planStateAt_moveThenWrap_onDisplay hc hs _ false _

/-- Wherever the first ERR cuts a request, the cursor is on the display. -/
theorem requestPlan_onDisplay {i : Instr} {s : State} {k : List Act} (hc : s.cfg.Legal) (hs : s.OnDisplay)
    (hk : requestPlan s i = .ok k) (n : Nat) : (planStateAt n k s).OnDisplay := by
  by_cases hcursor : i ≠ .init ∧ i ≠ .clear ∧ (∀ col row, i ≠ .moveto col row) ∧ (∀ cp, i ≠ .putchar cp)
  · obtain ⟨hinit, hclear, hmoveto, hputchar⟩ := hcursor
    refine planStateAt_onDisplay hs (fun a ha => ?_) n
    obtain ⟨hx, hy⟩ := (mem_requestPlan hk ha).1 hinit hclear hmoveto hputchar
    exact Act.inRange_of_ne hx hy _
  · cases i with
    | init => cases hk; exact planStateAt_onDisplay hs (initActs_inRange hc) n
    | clear => cases hk; exact planStateAt_onDisplay hs (clearActs_inRange hc) n
    | moveto col row =>
      simp only [requestPlan] at hk
      split at hk <;> cases hk
      rename_i hpos
      exact planStateAt_onDisplay hs (movetoActs_inRange (by omega) (by omega)) n
    | putchar cp =>
      simp only [requestPlan] at hk
      split at hk
      · cases hk
        split
        · exact planStateAt_onDisplay hs (by simp [Act.InRange]) n
        · exact planStateAt_lineFeed_onDisplay hc hs n
      · split at hk <;> cases hk
        exact planStateAt_character_onDisplay hc hs _ n
    | _ => simp at hcursor

/-! ## Operation boundaries -/

theorem exec_request_keeps_boundary {i : Instr} (hi : isHostRequest i = true) {s t : State} (hs : Boundary s)
    (h : exec i s = .next t) : Boundary t := by
  have hl := (Configuration.wf_iff s.cfg).1 hs.legal
  obtain ⟨hcfg, -, -, hseq⟩ := exec_request_frame hi h
  have hcursor : t.OnDisplay := by
    obtain ⟨u, es, st, rfl, rfl | ⟨k, n, hk, rfl⟩⟩ := exec_request_end hi h
    · exact hs.onDisplay
    · exact requestPlan_onDisplay hl hs.onDisplay hk n
  exact ⟨hcfg ▸ hs.legal, hcursor.1, hcursor.2, hseq⟩

/-- With no operation in progress a transport word writes nothing but FLAGS.BL and leaves its events. -/
theorem exec_prim_idle {p : Prim} {s t : State} (hseq : s.seq = .idle) (h : exec p.toInstr s = .next t) :
    ∃ es, t = (p.entry s).observed es := by
  rcases exec_prim_cases p s with ⟨-, hr⟩ | ⟨n, -, -, hr⟩ <;> rw [hr] at h <;> cases h
  · exact ⟨_, rfl⟩
  · refine ⟨cutAtWrite n ((Act.issue p).events s), ?_⟩
    have hidle : ((p.entry s).observed (cutAtWrite n ((Act.issue p).events s))).seq = .idle :=
      ((Act.issue p).planned_frame s).2.1.trans hseq
    simp only [State.primitiveFailed, hidle]

theorem exec_prim_keeps_boundary {p : Prim} {s t : State} (hs : Boundary s) (h : exec p.toInstr s = .next t) :
    Boundary t := by
  obtain ⟨es, rfl⟩ := exec_prim_idle hs.idle h
  obtain ⟨hlegal, hcol, hrow, hidle⟩ := hs
  cases p <;> exact ⟨hlegal, hcol, hrow, hidle⟩

theorem exec_keeps_boundary {i : Instr} {s t : State} (hs : Boundary s) (h : exec i s = .next t) : Boundary t := by
  cases hi : isHostRequest i with
  | true => exact exec_request_keeps_boundary hi hs h
  | false =>
    obtain ⟨p, rfl⟩ := exists_prim hi
    exact exec_prim_keeps_boundary hs h

theorem Boundary.withHostPort {s : State} (h : Boundary s) (words : List RequestWord) : Boundary (s.withHostPort words) :=
  ⟨h.legal, h.column, h.row, h.idle⟩

theorem Boundary.withAdapterPort {s : State} (h : Boundary s) (w : Option TransportWord) :
    Boundary (s.withAdapterPort w) :=
  ⟨h.legal, h.column, h.row, h.idle⟩

theorem Boundary.complete {s : State} (h : Boundary s) (st : Status) : Boundary (s.complete st) :=
  ⟨h.legal, h.column, h.row, rfl⟩

/-- Settles O3: a step from IDLE runs an instruction, rejects a request or waits, and each of these keeps the cursor on the display. -/
theorem stepKeepsBoundary : Obligations.StepKeepsBoundary := by
  intro s t hs h
  obtain ⟨i, hexec⟩ | ⟨i, after, hexec⟩ | ⟨after, rfl⟩ | rfl := step_idle_cases hs.idle h
  · exact exec_keeps_boundary (hs.withAdapterPort none) hexec
  · exact exec_keeps_boundary (hs.withHostPort after) hexec
  · exact (hs.withHostPort after).complete .invalidOperation
  · exact hs

/-! ## An operation run one statement at a time -/

/-- The Adapter reads back the primitive the Session put into the word (R72). -/
theorem decodeTransport_word (p : Prim) : decodeTransport p.word = .ok p.toInstr := by
  cases p with
  | wrInit n => revert n; decide
  | wrCmd c => revert c; decide
  | wrData d => revert d; decide
  | setBl v => revert v; decide
  | wait us =>
    simp only [Prim.word, Prim.toInstr, encode, decodeTransport, kindOf_tWait]
    simp [legalTransport, mask_tWait, operand_tWait_us]

/-- An operation's end does not depend on what SEQ said while it ran. -/
theorem runActs_withSeq_completed (k : List Act) (s : State) (q : Seq) :
    (runActs k (s.withSeq q)).completed = (runActs k s).completed := by
  have hevents := planEvents_withSeq k s q
  rcases allAck_or_errAfter s (writeCount (planEvents k s)) with ha | ⟨n, hn, he⟩
  · rw [runActs_ack k ha, runActs_ack k (s := s.withSeq q) (by rw [hevents]; exact ha.congr rfl rfl), hevents, planState_withSeq]
    rfl
  · rw [runActs_err k he hn, runActs_err k (s := s.withSeq q) (he.congr rfl rfl) (by rw [hevents]; exact hn), hevents,
      planStateAt_withSeq]
    rfl

theorem core_run_succ {s u : State} (h : step s = .next u) (n : Nat) :
    Sys2Proof.core.run (n + 1) s = Sys2Proof.core.run n u := by
  have hcore : Sys2Proof.core.step s = .next u := h
  simp only [Host.Core.run, hcore]

theorem finish_busy {s : State} {op : Instr} {k : List Act} (hseq : s.seq = .busy op k) :
    finish s = (runActs k s).completed := by
  simp only [finish, hseq]

theorem advance_write {a : Act} (ha : ∀ p, a ≠ .issue p) (op : Instr) (rest : List Act) (s : State) :
    advance op (a :: rest) s = (a.write s).withSeq (.busy op rest) := by
  cases a with
  | issue p => exact absurd rfl (ha p)
  | _ => rfl

theorem runActs_write {a : Act} (ha : ∀ p, a ≠ .issue p) (rest : List Act) (s : State) :
    runActs (a :: rest) s = runActs rest (a.write s) := by
  cases a with
  | issue p => exact absurd rfl (ha p)
  | _ => rfl

/-- A primitive that fails ends the operation in progress (R91). -/
theorem transportState_raised_busy {s : State} {op : Instr} {k : List Act} (hseq : s.seq = .busy op k) (e : Status) :
    (Ran.raised e s).transportState = s.complete e := by
  simp only [Ran.transportState, hseq]

theorem runPrim_frame (p : Prim) (s : State) :
    (runPrim p s).state.cfg = s.cfg ∧ (runPrim p s).state.seq = s.seq
      ∧ (runPrim p s).state.adapterPort = s.adapterPort := by
  obtain ⟨es, ⟨hr, -⟩ | ⟨n, -, hr, -⟩⟩ := runBus_observed (p.bus s) (p.entry s) <;> rw [runPrim_eq, hr] <;>
    cases p <;> exact ⟨rfl, rfl, rfl⟩

/-- A transport word takes two steps: the Session puts it on the port, and the Adapter runs it from there (R83). -/
theorem core_run_issue {s : State} {op : Instr} {p : Prim} {rest : List Act} (hwf : s.cfg.wf = true)
    (hport : s.adapterPort = none) (hseq : s.seq = .busy op (.issue p :: rest)) (n : Nat) :
    Sys2Proof.core.run (n + 2) s
      = Sys2Proof.core.run n (runPrim p (s.withSeq (.busy op rest))).transportState := by
  have hissue : step s = .next ((s.withAdapterPort (some p.word)).withSeq (.busy op rest)) := step_busy hwf hport hseq
  have htaken : ((s.withAdapterPort (some p.word)).withSeq (.busy op rest)).withAdapterPort none
      = s.withSeq (.busy op rest) := by
    rw [← hport]
    rfl
  have htransport : step ((s.withAdapterPort (some p.word)).withSeq (.busy op rest))
      = .next (runPrim p (s.withSeq (.busy op rest))).transportState := by
    rw [step_transport (s := (s.withAdapterPort (some p.word)).withSeq (.busy op rest)) hwf rfl,
      stepTransport_of_decode (decodeTransport_word p), htaken, exec_prim]
  rw [core_run_succ hissue, core_run_succ htransport]

/-- A transport word takes two steps, any other statement one, and the end of the operation one more; a failed transport word ends the
operation in its second step. -/
theorem core_run_eq_runActs (op : Instr) (k : List Act) (s : State) (hwf : s.cfg.wf = true)
    (hport : s.adapterPort = none) (hseq : s.seq = .busy op k) :
    ∃ n ≤ 2 * k.length + 1, Sys2Proof.core.run n s = .next (runActs k s).completed := by
  induction k generalizing s with
  | nil => exact ⟨1, Nat.le_refl _, core_run_succ (step_busy hwf hport hseq) 0⟩
  | cons a rest ih =>
    by_cases ha : ∀ p, a ≠ .issue p
    · have hstep := step_busy hwf hport hseq
      rw [advance_write ha] at hstep
      obtain ⟨hcfg, -, -, -, -, hadapter, -⟩ := write_frame a s
      obtain ⟨n, hn, hrun⟩ := ih ((a.write s).withSeq (.busy op rest)) (hcfg ▸ hwf) (hadapter.trans hport) rfl
      refine ⟨n + 1, by simp only [List.length_cons]; omega, ?_⟩
      rw [core_run_succ hstep, hrun, runActs_withSeq_completed, runActs_write ha]
    · obtain ⟨p, rfl⟩ := not_forall_not.1 ha
      rw [← runActs_withSeq_completed (.issue p :: rest) s (.busy op rest)]
      have hrun := core_run_issue hwf hport hseq
      have hframe := runPrim_frame p (s.withSeq (.busy op rest))
      rw [runActs, runAct]
      cases hr : runPrim p (s.withSeq (.busy op rest)) with
      | done u =>
        rw [hr] at hrun hframe
        obtain ⟨hcfg, hbusy, hadapter⟩ := hframe
        obtain ⟨n, hn, hrest⟩ := ih u (hcfg ▸ hwf) (hadapter.trans hport) hbusy
        exact ⟨n + 2, by simp only [List.length_cons]; omega, (hrun n).trans hrest⟩
      | raised e u =>
        rw [hr] at hrun hframe
        obtain ⟨-, hbusy, -⟩ := hframe
        exact ⟨2, by simp only [List.length_cons]; omega, (hrun 0).trans (congrArg _ (transportState_raised_busy hbusy e))⟩

/-- Settles O19: both ways make the same statements in the same order (`core_run_eq_runActs`). -/
theorem stepByStepMatchesWholeOperation : Obligations.StepByStepMatchesWholeOperation := by
  intro s op k hwf hport hseq
  rw [finish_busy hseq]
  exact ⟨core_run_eq_runActs op k s hwf hport hseq, rfl⟩

end Sys2Proof.Machine
end

section
/-! PROOFS. The tables and values of 20_memory.md: the character map (R41), the DDRAM addresses (R42, 41_session.md R114), and how long
the command of CLEAR holds back the next write (R52, 70_reset_and_hazards.md R158). -/

namespace Sys2Proof

/-! ## The override list -/

/-- A legal override list is a map: what is in it is what looking its key up finds. -/
theorem Configuration.Legal.lookup_of_mem {c : Configuration} (hc : c.Legal) {k g : Nat}
    (h : (k, g) ∈ c.charmapOverrides) : c.charmapOverrides.lookup k = some g := by
  have hnodup : (c.charmapOverrides.map Prod.fst).Nodup := hc.canonical.imp Nat.ne_of_lt
  cases hlook : c.charmapOverrides.lookup k with
  | none => simpa using List.lookup_eq_none_iff.1 hlook _ h
  | some g' =>
    obtain ⟨l₁, l₂, hl, -⟩ := List.lookup_eq_some_iff.1 hlook
    have hmem : (k, g') ∈ c.charmapOverrides := by simp [hl]
    exact congrArg (some ·.2) (List.inj_on_of_nodup_map hnodup hmem h rfl)

/-- An overridden codepoint is neither ASCII nor past the end of Unicode. -/
theorem Configuration.Legal.not_mem_overrides {c : Configuration} (hc : c.Legal) {k : Nat} (hk : k < 0x80 ∨ 0x110000 ≤ k)
    (g : Nat) : (k, g) ∉ c.charmapOverrides := by
  intro h
  have hrange : 0x80 ≤ k ∧ k ≤ 0x10FFFF := hc.keys _ h
  omega

namespace Machine

/-! ## The character map -/

theorem charMap_of_override {c : Configuration} (hc : c.Legal) {cp : Codepoint} {g : Nat}
    (h : (cp.toNat, g) ∈ c.charmapOverrides) : charMap c cp = some (BitVec.ofNat 8 g) := by
  simp only [charMap, hc.lookup_of_mem h]

theorem charMap_of_no_override {c : Configuration} {cp : Codepoint} (h : ∀ g, (cp.toNat, g) ∉ c.charmapOverrides) :
    charMap c cp = if cp.toNat < 0x100 then some (BitVec.ofNat 8 cp.toNat) else none := by
  have hlook : c.charmapOverrides.lookup cp.toNat = none :=
    List.lookup_eq_none_iff.2 fun kv hkv => bne_iff_ne.2 fun hk => h kv.2 (hk ▸ hkv)
  simp only [charMap, hlook]
  rfl

/-- Settles O52: an override is what the lookup finds, and the key range of R16 leaves ASCII and 0x110000 and above without one. -/
theorem charMapLookup : Obligations.CharMapLookup := by
  intro c cp hwf
  have hc := (Configuration.wf_iff c).1 hwf
  refine ⟨fun hascii => ?_, fun g hg => charMap_of_override hc hg, fun hno hlow => ?_, fun hno hhigh => ?_,
    fun hbeyond => ?_⟩
  · rw [charMap_of_no_override (hc.not_mem_overrides (.inl hascii)), if_pos (by omega)]
  · rw [charMap_of_no_override hno, if_pos hlow]
  · rw [charMap_of_no_override hno, if_neg (by omega)]
  · rw [charMap_of_no_override (hc.not_mem_overrides (.inr hbeyond)), if_neg (by omega)]

/-! ## DDRAM addresses -/

/-- A cell's address does not wrap at 7 bits: its row ends inside DDRAM (R16). -/
theorem ddramAddr_toNat {c : Configuration} (hc : c.Legal) {x y : Nat} (hx : x < c.cols) (hy : y < c.rows) :
    (ddramAddr c x y).toNat = (c.rowBase.at y).toNat + x := by
  have hfits := hc.fits y hy
  exact Nat.mod_eq_of_lt (by omega)

/-- Bit 7, the command's own bit, lies above the seven address bits. -/
theorem setDdram_toNat (a : DdramAddr) : (setDdram a).toNat = 0x80 + a.toNat := by
  revert a; decide

/-- The rows of a legal table are apart, so an address belongs to one row and there to one column. -/
theorem ddramAddr_injective {c : Configuration} (hc : c.Legal) {x y x' y' : Nat} (hx : x < c.cols) (hy : y < c.rows)
    (hx' : x' < c.cols) (hy' : y' < c.rows) (h : ddramAddr c x y = ddramAddr c x' y') : x = x' ∧ y = y' := by
  have hsum : (c.rowBase.at y).toNat + x = (c.rowBase.at y').toNat + x' := by
    rw [← ddramAddr_toNat hc hx hy, h, ddramAddr_toNat hc hx' hy']
  by_cases hrow : y = y'
  · subst hrow
    exact ⟨Nat.add_left_cancel hsum, rfl⟩
  · exact absurd hsum (hc.no_shared_address hy hy' hrow hx hx')

/-- Settles O53: no row wraps at 7 bits and no two rows share an address. -/
theorem ddramAddressesAreExactAndDistinct : Obligations.DdramAddressesAreExactAndDistinct := by
  intro c x y hwf hx hy
  have hc := (Configuration.wf_iff c).1 hwf
  have haddr := ddramAddr_toNat hc hx hy
  exact ⟨haddr, by rw [setDdram_toNat, haddr, Nat.add_assoc], fun x' y' hx' hy' => ddramAddr_injective hc hx hy hx' hy'⟩

/-! ## The delay after CLEAR -/

/-- Times that keep a trace's bounds keep those of its end, from some earliest start on. -/
theorem honours_append_right {es fs : List Event} {ready : Nat} {times : List (Nat × Nat)}
    (h : honours ready (es ++ fs) times) : ∃ before after ready', times = before ++ after ∧ honours ready' fs after := by
  induction es generalizing ready times with
  | nil => exact ⟨[], times, ready, rfl, h⟩
  | cons e es ih =>
    cases e with
    | wait us => exact ih (ready := ready + us.toNat) h
    | write d b a =>
      cases times with
      | nil => exact h.elim
      | cons time times =>
        obtain ⟨-, -, hrest⟩ := h
        obtain ⟨before, after, ready', rfl, hafter⟩ := ih hrest
        exact ⟨time :: before, after, ready', rfl, hafter⟩

/-- A wait between two writes holds back the second one by its length, counted from the finish of the first (R52). -/
theorem honours_write_wait_write {d d' : DeviceAddr} {b b' : Byte} {a a' : Answer} {us : Micros} {ready : Nat}
    {times : List (Nat × Nat)} (h : honours ready [.write d b a, .wait us, .write d' b' a'] times) :
    ∃ last next, times = [last, next] ∧ last.2 + us.toNat ≤ next.1 := by
  match times with
  | [] => exact h.elim
  | [_] => exact h.2.2.elim
  | [last, next] => exact ⟨last, next, rfl, h.2.2.1⟩
  | _ :: _ :: _ :: _ => exact h.2.2.2.2.elim

/-- An ACKed CLEAR adds to the trace its one slow command and nothing more (R100). -/
theorem exec_clear_trace {s t : State} (hseq : s.seq = .idle) (hack : AllAck s 4) (h : exec .clear s = .next t) :
    t.trace = s.trace ++ slowCommandEvents s 0x01 := by
  have hrun : exec .clear s = _ :=
    perform_ack hseq .clear clearActs (by rwa [planEvents_clear, writeCount_slowCommandEvents])
  rw [hrun, planEvents_clear, planState_clear] at h
  cases h
  rfl

/-- A slow command ends in the write that lowers E for its low nibble and the wait of R87. -/
theorem slowCommandEvents_eq_append (s : State) (cmd : Byte) :
    slowCommandEvents s cmd
      = (valueEvents s cmd false).take 3 ++ [ackWrite s (pcf s.bl (lowNibble cmd) false false), .wait 5000#20] := rfl

/-- Settles O56: the trace of an ACKed CLEAR ends in a write and a wait of 5000 µs, which lies between that write and the next one. -/
theorem clearHoldsBackTheNextWrite : Obligations.ClearHoldsBackTheNextWrite := by
  intro s t d b a times ready hseq hack hclear htimes
  rw [exec_clear_trace hseq hack hclear, slowCommandEvents_eq_append, ← List.append_assoc, List.append_assoc] at htimes
  obtain ⟨before, after, ready', rfl, hend⟩ := honours_append_right htimes
  obtain ⟨last, next, rfl, hdelay⟩ := honours_write_wait_write hend
  exact ⟨before, last, next, rfl, hdelay⟩

end Machine

end Sys2Proof
end

section
/-! PROOFS. The encodings of 30_encoding.md: which words decode (R69 to R72), what becomes of those that do not (R70, R134), the bus
byte (R74), the composite commands (R76 to R78) and the status codes (R79). -/

namespace Sys2Proof

/-! ## Rows of the opcode table -/

theorem OpcodeRow.covers_iff {n : Nat} {row : OpcodeRow} {word : BitVec n} :
    row.covers word = true ↔ word &&& BitVec.ofNat n row.mask = BitVec.ofNat n row.value :=
  beq_iff_eq

/-- The opcode a host row fixes (R59). -/
def OpcodeRow.opcode (row : OpcodeRow) : BitVec 8 := opcodeOf (BitVec.ofNat 32 row.value)

/-- The kind a transport row fixes (R72). -/
def OpcodeRow.kind (row : OpcodeRow) : BitVec 4 := kindOf (BitVec.ofNat 24 row.value)

theorem opcode_injective_on_hostRows : ∀ p ∈ hostRows, ∀ q ∈ hostRows, p.opcode = q.opcode → p = q := by decide

theorem kind_injective_on_transportRows : ∀ p ∈ transportRows, ∀ q ∈ transportRows, p.kind = q.kind → p = q := by decide

/-- The mask of every host row holds all of `OPC`. -/
theorem opcodeOf_of_covers {row : OpcodeRow} (hrow : row ∈ hostRows) {h : RequestWord} (hc : row.covers h = true) :
    opcodeOf h = row.opcode := by
  have hmask : ∀ row ∈ hostRows, (BitVec.ofNat 32 row.mask).extractLsb' 24 8 = 0xFF#8 := by decide
  exact opcodeOf_of_mask (OpcodeRow.covers_iff.1 hc) (hmask row hrow)

/-- The mask of every transport row holds all of `KIND`. -/
theorem kindOf_of_covers {row : OpcodeRow} (hrow : row ∈ transportRows) {t : TransportWord} (hc : row.covers t = true) :
    kindOf t = row.kind := by
  have hmask : ∀ row ∈ transportRows, (BitVec.ofNat 24 row.mask).extractLsb' 20 4 = 0xF#4 := by decide
  exact kindOf_of_mask (OpcodeRow.covers_iff.1 hc) (hmask row hrow)

theorem legalRequest_eq_ok {h mask value : RequestWord} {i j : Instr} :
    legalRequest h mask value i = .ok j ↔ h &&& mask = value ∧ i = j := by
  by_cases hmask : h &&& mask = value <;> simp [legalRequest, hmask]

theorem legalTransport_eq_ok {t mask value : TransportWord} {i j : Instr} :
    legalTransport t mask value i = .ok j ↔ t &&& mask = value ∧ i = j := by
  by_cases hmask : t &&& mask = value <;> simp [legalTransport, hmask]

/-! ## What the decoders answer -/

/-- The opcode picks the row of the table, and the row's mask decides between a host request and a rejection (R71). -/
theorem decodeRequest_of_opcode {row : OpcodeRow} (hrow : row ∈ hostRows) {r : RawRequest}
    (hop : opcodeOf r.h = row.opcode) : ∃ i, Machine.isHostRequest i = true
      ∧ decodeRequest r = legalRequest r.h (BitVec.ofNat 32 row.mask) (BitVec.ofNat 32 row.value) i := by
  simp only [hostRows, List.mem_cons, List.not_mem_nil, or_false] at hrow
  rcases hrow with rfl | rfl | rfl | rfl | rfl | rfl | rfl | rfl | rfl <;>
    exact ⟨_, rfl, by rw [decodeRequest, hop]; rfl⟩

/-- An opcode of no row is reserved (R70). -/
theorem decodeRequest_of_reserved {r : RawRequest} (hop : ∀ row ∈ hostRows, opcodeOf r.h ≠ row.opcode) :
    decodeRequest r = .error .reservedOpcode := by
  simp only [hostRows, List.forall_mem_cons] at hop
  obtain ⟨h1, h2, h3, h4, h5, h6, h7, h8, h9, -⟩ := hop
  exact (if_neg h1).trans <| (if_neg h2).trans <| (if_neg h3).trans <| (if_neg h4).trans <| (if_neg h5).trans <|
    (if_neg h6).trans <| (if_neg h7).trans <| (if_neg h8).trans <| if_neg h9

/-- The kind picks the row of the table, and the row's mask decides (R72). -/
theorem decodeTransport_of_kind {row : OpcodeRow} (hrow : row ∈ transportRows) {t : TransportWord}
    (hkind : kindOf t = row.kind) :
    ∃ i, decodeTransport t = legalTransport t (BitVec.ofNat 24 row.mask) (BitVec.ofNat 24 row.value) i := by
  simp only [transportRows, List.mem_cons, List.not_mem_nil, or_false] at hrow
  rcases hrow with rfl | rfl | rfl | rfl | rfl <;> exact ⟨_, by rw [decodeTransport, hkind]; rfl⟩

/-- A kind of no row is reserved (R96). -/
theorem decodeTransport_of_reserved {t : TransportWord} (hkind : ∀ row ∈ transportRows, kindOf t ≠ row.kind) :
    decodeTransport t = .error .reservedKind := by
  simp only [transportRows, List.forall_mem_cons] at hkind
  obtain ⟨h0, h1, h2, h3, h4, -⟩ := hkind
  exact (if_neg h0).trans <| (if_neg h1).trans <| (if_neg h2).trans <| (if_neg h3).trans <| if_neg h4

/-- What decodes lies in the row of its opcode, and is a host request. -/
theorem decodeRequest_eq_ok {r : RawRequest} {i : Instr} (h : decodeRequest r = .ok i) :
    Machine.isHostRequest i = true ∧ ∃ row ∈ hostRows, row.covers r.h = true := by
  by_cases hop : ∃ row ∈ hostRows, opcodeOf r.h = row.opcode
  · obtain ⟨row, hrow, hop⟩ := hop
    obtain ⟨j, hj, hdec⟩ := decodeRequest_of_opcode hrow hop
    obtain ⟨hmask, rfl⟩ := legalRequest_eq_ok.1 (hdec.symm.trans h)
    exact ⟨hj, row, hrow, OpcodeRow.covers_iff.2 hmask⟩
  · rw [decodeRequest_of_reserved fun row hrow heq => hop ⟨row, hrow, heq⟩] at h
    cases h

theorem decodeRequest_ok_iff (r : RawRequest) :
    (∃ i, decodeRequest r = .ok i) ↔ ∃ row ∈ hostRows, row.covers r.h = true := by
  refine ⟨fun ⟨i, h⟩ => (decodeRequest_eq_ok h).2, fun ⟨row, hrow, hc⟩ => ?_⟩
  obtain ⟨i, -, hdec⟩ := decodeRequest_of_opcode hrow (opcodeOf_of_covers hrow hc)
  exact ⟨i, hdec.trans (legalRequest_eq_ok.2 ⟨OpcodeRow.covers_iff.1 hc, rfl⟩)⟩

theorem decodeTransport_ok_iff (t : TransportWord) :
    (∃ i, decodeTransport t = .ok i) ↔ ∃ row ∈ transportRows, row.covers t = true := by
  constructor
  · rintro ⟨i, h⟩
    by_cases hkind : ∃ row ∈ transportRows, kindOf t = row.kind
    · obtain ⟨row, hrow, hkind⟩ := hkind
      obtain ⟨j, hdec⟩ := decodeTransport_of_kind hrow hkind
      obtain ⟨hmask, -⟩ := legalTransport_eq_ok.1 (hdec.symm.trans h)
      exact ⟨row, hrow, OpcodeRow.covers_iff.2 hmask⟩
    · rw [decodeTransport_of_reserved fun row hrow heq => hkind ⟨row, hrow, heq⟩] at h
      cases h
  · rintro ⟨row, hrow, hc⟩
    obtain ⟨i, hdec⟩ := decodeTransport_of_kind hrow (kindOf_of_covers hrow hc)
    exact ⟨i, hdec.trans (legalTransport_eq_ok.2 ⟨OpcodeRow.covers_iff.1 hc, rfl⟩)⟩

/-- Settles O11: a row fixes its opcode or kind, no two rows of a port fix the same one, and the decoders check the row it picks. -/
theorem legalWhenMaskMatches : Obligations.LegalWhenMaskMatches :=
  ⟨decodeRequest_ok_iff, decodeTransport_ok_iff,
    fun _ p q hp hq hpc hqc => opcode_injective_on_hostRows p hp q hq
      ((opcodeOf_of_covers hp hpc).symm.trans (opcodeOf_of_covers hq hqc)),
    fun _ p q hp hq hpc hqc => kind_injective_on_transportRows p hp q hq
      ((kindOf_of_covers hp hpc).symm.trans (kindOf_of_covers hq hqc))⟩

/-- A request of no row is rejected. -/
theorem decodeRequest_of_no_row {r : RawRequest} (h : ∀ row ∈ hostRows, row.covers r.h = false) :
    ∃ e, decodeRequest r = .error e := by
  cases hd : decodeRequest r with
  | error e => exact ⟨e, rfl⟩
  | ok i =>
    obtain ⟨-, row, hrow, hc⟩ := decodeRequest_eq_ok hd
    exact absurd hc (Bool.eq_false_iff.1 (h row hrow))

/-! ## The words of a request -/

theorem takeRequest_three_words {h : RequestWord} (hop : opcodeOf h = glyphOpcode) (p0 p1 : RequestWord)
    (after : List RequestWord) : takeRequest (h :: p0 :: p1 :: after) = some (⟨h, p0, p1⟩, after) := by
  simp only [takeRequest, requestLength, if_pos hop, if_true]

theorem takeRequest_one_word {h : RequestWord} (hop : opcodeOf h ≠ glyphOpcode) (after : List RequestWord) :
    takeRequest (h :: after) = some (⟨h, 0, 0⟩, after) := by
  simp [takeRequest, requestLength, hop]

namespace Machine

/-- Settles O12: a word of no row is rejected by the decoder, and a rejection writes the status alone. -/
theorem undecodableRequestIsInvalidOperation : Obligations.UndecodableRequestIsInvalidOperation := by
  intro s r after hwf hport hseq htake hrows
  obtain ⟨e, hdec⟩ := decodeRequest_of_no_row hrows
  have hidle : (s.withHostPort after).seq = .idle := hseq
  rw [step_idle hwf hport hseq, stepRequest_of_reject htake hdec, reject_idle hidle, State.complete, ← hidle]
  rfl

/-- Whether the request is run or rejected, the step takes its words and leaves the rest on the port. -/
theorem step_takes_request {s : State} (hwf : s.cfg.wf = true) (hport : s.adapterPort = none) (hseq : s.seq = .idle)
    {r : RawRequest} {after : List RequestWord} (htake : takeRequest s.hostPort = some (r, after)) :
    ∃ t, step s = .next t ∧ t.hostPort = after := by
  have hidle : (s.withHostPort after).seq = .idle := hseq
  rw [step_idle hwf hport hseq]
  cases hdec : decodeRequest r with
  | ok i =>
    obtain ⟨hi, -⟩ := decodeRequest_eq_ok hdec
    obtain ⟨t, ht⟩ := exec_request_next hi hidle
    obtain ⟨-, hhost, -⟩ := exec_request_frame hi ht
    exact ⟨t, (stepRequest_of_decode htake hdec).trans ht, hhost⟩
  | error e => exact ⟨_, (stepRequest_of_reject htake hdec).trans (reject_idle hidle _), rfl⟩

/-- Settles O13: the opcode says which words are the request, and a step takes them. -/
theorem requestWordsAreConsumedByLength : Obligations.RequestWordsAreConsumedByLength := by
  intro s hwf hport hseq
  refine ⟨fun h p0 p1 after hop hwords => ?_, fun h after hop hwords => ?_⟩
  · exact step_takes_request hwf hport hseq (hwords ▸ takeRequest_three_words hop p0 p1 after)
  · exact step_takes_request hwf hport hseq (hwords ▸ takeRequest_one_word hop after)

/-! ## The bus byte -/

theorem pcf_nibble (bl : Bool) (n : Nibble) (rs e : Bool) : (pcf bl n rs e).extractLsb' 4 4 = n := by
  revert bl n rs e; decide

/-- "The E=1 byte of a pulse is `b | 0x04`" (R74). -/
theorem pcf_enable (bl : Bool) (n : Nibble) (rs : Bool) : pcf bl n rs true = pcf bl n rs false ||| 0x04#8 := by
  revert bl n rs; decide

/-- Settles O20, field by field. -/
theorem busByteLayout : Obligations.BusByteLayout := fun bl n rs e =>
  ⟨pcf_nibble bl n rs e, pcf_bl bl n rs e, pcf_e bl n rs e, pcf_rw bl n rs e, pcf_rs bl n rs e, pcf_enable bl n rs⟩

/-! ## The composite commands -/

theorem dctl_toNat (s : State) : (dctl s).toNat = 0x08 + 4 * s.d.toNat + 2 * s.c.toNat + s.b.toNat := by
  have hd := s.d.toNat_le
  have hc := s.c.toNat_le
  have hb := s.b.toNat_le
  rw [dctl_eq]
  exact Nat.mod_eq_of_lt (by omega)

/-- Of a slot only its three low bits go into the command (R78). -/
theorem setCgram_toNat (slot : BitVec 8) : (setCgram slot).toNat = 0x40 + 8 * (slot.toNat % 8) := by
  revert slot; decide

theorem three_lt_funcset (c : Configuration) : 3 < (funcset c).toNat := by
  rw [funcset_eq]
  split <;> decide

/-- Settles O54: each bound follows from the command's value. -/
theorem commandValues : Obligations.CommandValues := by
  refine ⟨dctl_toNat, funcset_eq, fun slot hslot => ?_, setDdram_toNat, fun s => ?_, three_lt_funcset, fun slot => ?_,
    fun a => ?_⟩
  · rw [setCgram_toNat, Nat.mod_eq_of_lt (by omega)]
  · rw [dctl_toNat]; omega
  · rw [setCgram_toNat]; omega
  · rw [setDdram_toNat]; omega

/-! ## The status codes -/

theorem Status.code_le_five (st : Status) : st.code ≤ 5 := by
  cases st <;> decide

/-- Settles O55: 6 and 7 lie above the last code. -/
theorem statusCodes : Obligations.StatusCodes := by
  refine ⟨rfl, rfl, rfl, rfl, rfl, rfl, fun st => ⟨fun h => ?_, fun h => ?_⟩⟩ <;>
    exact absurd (h ▸ st.code_le_five) (by decide)

end Machine

end Sys2Proof
end

section
/-! PROOFS. The Transport/Protocol Adapter (40_transport.md): how a word on the transport port is run or refused (R83, R96), what each
transport word sends and leaves unchanged (R85 to R91), and the bits and the framing of every byte an instruction sends (R84, R92 to
R94). -/

namespace Sys2Proof

/-- A transport word of no row is rejected. -/
theorem decodeTransport_of_no_row {t : TransportWord} (h : ∀ row ∈ transportRows, row.covers t = false) :
    ∃ e, decodeTransport t = .error e := by
  cases hd : decodeTransport t with
  | error e => exact ⟨e, rfl⟩
  | ok i =>
    obtain ⟨row, hrow, hc⟩ := (decodeTransport_ok_iff t).1 ⟨i, hd⟩
    exact absurd hc (Bool.eq_false_iff.1 (h row hrow))

namespace Machine

/-! ## A word on the transport port -/

/-- Settles O16: the transport port comes before SEQ (`step_transport`). -/
theorem stepRunsTransportWord : Obligations.StepRunsTransportWord := by
  intro s t i hwf hport hd
  rw [step_transport hwf hport, stepTransport_of_decode hd]

/-- Settles O17: a word of no row does not decode. -/
theorem reservedTransportWordRefused : Obligations.ReservedTransportWordRefused := by
  intro s t hwf hport hrows
  obtain ⟨e, hd⟩ := decodeTransport_of_no_row hrows
  simp only [step_transport hwf hport, stepTransport, hd]

/-! ## The events of one transport word -/

/-- The wait of R87 written as a value. -/
theorem events_wrCmd_eq_append (s : State) (c : Byte) :
    (Act.issue (.wrCmd c)).events s = valueEvents s c false ++ [.wait (if c.toNat ≤ 3 then 5000#20 else settleUs s.cfg)] := by
  rw [events_wrCmd]
  split <;> rfl

theorem backlightByte_eq (v : Bool) : backlightByte v = if v then 0x08 else 0x00 := by
  cases v <;> rfl

/-- A transport word makes the writes `transportWrites` says. -/
theorem writeCount_issue (p : Prim) (s : State) : writeCount ((Act.issue p).events s) = transportWrites p.toInstr := by
  cases p with
  | wrInit n => rw [events_wrInit, writeCount_nibbleEvents]; rfl
  | wrCmd c => rw [events_wrCmd_eq_append, writeCount_append, writeCount_valueEvents]; rfl
  | wrData d => rw [events_wrData, writeCount_dataEvents]; rfl
  | setBl v => rfl
  | wait us => rfl

theorem transportWrites_le_four (i : Instr) : transportWrites i ≤ 4 := by
  cases i <;> simp [transportWrites]

/-! ## Running a transport word -/

theorem exec_prim_ack (p : Prim) {s : State} (ha : AllAck s (transportWrites p.toInstr)) :
    exec p.toInstr s = .next ((p.entry s).observed ((Act.issue p).events s)) := by
  rw [← writeCount_issue p s] at ha
  obtain ⟨-, hrun⟩ | ⟨n, hn, he, -⟩ := exec_prim_cases p s
  · exact hrun
  · exact (ha.not_errAfter he hn).elim

theorem exec_prim_err (p : Prim) {s : State} {j : Nat} (he : ErrAfter s j) (hj : j < transportWrites p.toInstr) :
    exec p.toInstr s = .next ((p.entry s).observed (cutAtWrite j ((Act.issue p).events s))).primitiveFailed := by
  rw [← writeCount_issue p s] at hj
  obtain ⟨ha, -⟩ | ⟨n, -, hn, hrun⟩ := exec_prim_cases p s
  · exact (ha.not_errAfter he hj).elim
  · rwa [hn.unique he] at hrun

/-- Settles O21: one pulse is all T.WRINIT sends. -/
theorem writeInitNibbleSendsOnePulse : Obligations.WriteInitNibbleSendsOnePulse := by
  intro n s
  rw [← events_wrInit]
  exact ⟨rfl, exec_prim_ack (.wrInit n), fun j hj he => exec_prim_err (.wrInit n) he hj⟩

/-- Settles O22: the wait of T.WRCMD comes after its last write, so a cut leaves it out. -/
theorem writeCommandSendsTwoPulsesThenWaits : Obligations.WriteCommandSendsTwoPulsesThenWaits := by
  intro c s
  refine ⟨rfl, fun ha => ?_, fun j hj he => ?_⟩
  · exact (exec_prim_ack (.wrCmd c) ha).trans (by rw [events_wrCmd_eq_append]; rfl)
  · rw [← cutAtWrite_append_left _ (by rwa [writeCount_valueEvents]), ← events_wrCmd_eq_append]
    exact exec_prim_err (.wrCmd c) he hj

/-- Settles O23: as in T.WRCMD, with RS = 1 and one wait for every value. -/
theorem writeDataSendsTwoPulsesThenSettles : Obligations.WriteDataSendsTwoPulsesThenSettles := by
  intro d s
  refine ⟨rfl, fun ha => ?_, fun j hj he => ?_⟩
  · exact (exec_prim_ack (.wrData d) ha).trans (by rw [events_wrData]; rfl)
  · rw [← cutAtWrite_append_left [.wait (settleUs s.cfg)] (by rwa [writeCount_valueEvents])]
    exact (exec_prim_err (.wrData d) he hj).trans (by rw [events_wrData]; rfl)

/-- Settles O24: the flag is written on entry (`Prim.entry`), before the one byte and whatever its answer. -/
theorem setBacklightWritesFlagThenByte : Obligations.SetBacklightWritesFlagThenByte := by
  intro v s
  rw [← backlightByte_eq]
  refine ⟨rfl, fun hack => exec_prim_ack (.setBl v) fun j hj => ?_, fun herr => ?_⟩
  · rwa [Nat.lt_one_iff.1 hj]
  · exact exec_prim_err (.setBl v) ⟨fun j hj => absurd hj j.not_lt_zero, herr⟩ Nat.one_pos

/-- Settles O25: T.WAIT makes no write, so no answer can end it. -/
theorem waitEmitsOneEvent : Obligations.WaitEmitsOneEvent :=
  fun _ _ => ⟨rfl, rfl⟩

/-! ## What a transport word leaves unchanged -/

theorem primitiveFailed_idle {s : State} (h : s.seq = .idle) : s.primitiveFailed = s := by
  simp only [State.primitiveFailed, h]

theorem primitiveFailed_of_ne_idle {s : State} (h : s.seq ≠ .idle) : s.primitiveFailed = s.complete .transportError := by
  cases hseq : s.seq with
  | idle => exact absurd hseq h
  | busy op k => simp only [State.primitiveFailed, hseq]

/-- A transport word leaves its entry write and events, and at most ends the operation in progress. -/
theorem exec_prim_end {p : Prim} {s t : State} (h : exec p.toInstr s = .next t) :
    ∃ es, (es = (Act.issue p).events s ∨ ∃ n, es = cutAtWrite n ((Act.issue p).events s))
      ∧ (t = (p.entry s).observed es ∨ t = ((p.entry s).observed es).complete .transportError) := by
  obtain ⟨-, hrun⟩ | ⟨n, -, -, hrun⟩ := exec_prim_cases p s <;> cases h.symm.trans hrun
  · exact ⟨_, .inl rfl, .inl rfl⟩
  · refine ⟨_, .inr ⟨n, rfl⟩, ?_⟩
    by_cases hidle : ((p.entry s).observed (cutAtWrite n ((Act.issue p).events s))).seq = .idle
    · exact .inl (primitiveFailed_idle hidle)
    · exact .inr (primitiveFailed_of_ne_idle hidle)

/-- Whatever the Transport answers, a transport word leaves these fields as they are. -/
theorem exec_prim_frame {p : Prim} {s t : State} (h : exec p.toInstr s = .next t) :
    t.cfg = s.cfg ∧ t.cursorX = s.cursorX ∧ t.cursorY = s.cursorY ∧ t.impliedNl = s.impliedNl ∧ t.d = s.d ∧ t.c = s.c
      ∧ t.b = s.b ∧ t.hostPort = s.hostPort ∧ t.adapterPort = s.adapterPort := by
  obtain ⟨hx, hy, hnl, hd, hc, hb⟩ := entry_frame p s
  obtain ⟨hcfg, -, -, hhost, hadapter, -⟩ := (Act.issue p).planned_frame s
  obtain ⟨es, -, rfl | rfl⟩ := exec_prim_end h <;> exact ⟨hcfg, hx, hy, hnl, hd, hc, hb, hhost, hadapter⟩

/-- FLAGS.BL after a transport word (R89). -/
theorem exec_prim_bl {p : Prim} {s t : State} (h : exec p.toInstr s = .next t) :
    t.bl = ((Act.issue p).planned s).bl := by
  obtain ⟨es, -, rfl | rfl⟩ := exec_prim_end h <;> rfl

/-- A transport word ends no operation when its writes are ACKed, or when there is none to end (log 7). -/
theorem exec_prim_keeps_operation {p : Prim} {s t : State} (h : exec p.toInstr s = .next t)
    (hquiet : AllAck s (transportWrites p.toInstr) ∨ s.seq = .idle) : t.seq = s.seq ∧ t.responses = s.responses := by
  obtain ⟨-, hseq, -, -, -, -, -, hresp⟩ := (Act.issue p).planned_frame s
  rcases hquiet with ha | hidle
  · cases h.symm.trans (exec_prim_ack p ha)
    exact ⟨hseq, hresp⟩
  · obtain ⟨es, rfl⟩ := exec_prim_idle hidle h
    exact ⟨hseq, hresp⟩

/-- A write answered ERR ends the operation in progress with TransportError (R91). -/
theorem exec_prim_ends_operation {p : Prim} {s t : State} (h : exec p.toInstr s = .next t) {j : Nat}
    (hj : j < transportWrites p.toInstr) (he : ErrAfter s j) (hbusy : s.seq ≠ .idle) :
    t.seq = .idle ∧ t.responses = s.responses ++ [.transportError] := by
  obtain ⟨-, hseq, -, -, -, -, -, hresp⟩ := (Act.issue p).planned_frame s
  have hfails : ((p.entry s).observed (cutAtWrite j ((Act.issue p).events s))).seq ≠ .idle :=
    fun hidle => hbusy (hseq.symm.trans hidle)
  rw [exec_prim_err p he hj, primitiveFailed_of_ne_idle hfails] at h
  cases h
  exact ⟨rfl, congrArg (· ++ [Status.transportError]) hresp⟩

theorem exec_tSetbl_bl {v : Bool} {s t : State} (h : exec (.tSetbl v) s = .next t) : t.bl = v :=
  (exec_prim_bl (p := .setBl v) h).trans (s.writeBl_bl v)

/-- Settles O29: a transport word writes no field of the Session but FLAGS.BL (`exec_prim_frame`), and that only in T.SETBL. -/
theorem transportWordFrame : Obligations.TransportWordFrame := by
  intro i s t hi h
  obtain ⟨p, rfl⟩ := exists_prim hi
  obtain ⟨hcfg, hx, hy, hnl, hd, hc, hb, hhost, hadapter⟩ := exec_prim_frame h
  have hbl (hne : ∀ v, p.toInstr ≠ .tSetbl v) : t.bl = s.bl :=
    (exec_prim_bl h).trans (planned_bl (.issue p) s fun v hv => absurd (congrArg Prim.toInstr (Act.issue.inj hv)) (hne v))
  have hset (v : Bool) (hv : p.toInstr = .tSetbl v) : t.bl = v := exec_tSetbl_bl (hv ▸ h)
  exact ⟨hcfg, hx, hy, hnl, hd, hc, hb, hbl, hset, hhost, hadapter, exec_prim_keeps_operation h,
    fun j => exec_prim_ends_operation h⟩

/-! ## The bits of every byte -/

/-- Where the bytes of one statement go, and their bits BL, RW and RS (R74). -/
theorem mem_events {x : Act} {s : State} {d : DeviceAddr} {b : Byte} {a : Answer} (h : Event.write d b a ∈ x.events s) :
    d = deviceAddr s.cfg ∧ b.getLsbD 3 = (x.planned s).bl ∧ b.getLsbD 1 = false
      ∧ (b.getLsbD 0 = true ↔ ∃ v, x = .issue (.wrData v)) := by
  cases x with
  | issue p =>
    cases p with
    | wrInit n =>
      rw [events_wrInit] at h
      obtain ⟨rfl, e, rfl⟩ := mem_nibbleEvents h
      exact ⟨rfl, pcf_bl .., pcf_rw .., by rw [pcf_rs]; simp⟩
    | wrCmd c =>
      rw [events_wrCmd_eq_append] at h
      obtain ⟨rfl, n, e, rfl⟩ := mem_valueEvents (v := c) (rs := false) (a := a) (by simpa using h)
      exact ⟨rfl, pcf_bl .., pcf_rw .., by rw [pcf_rs]; simp⟩
    | wrData v =>
      rw [events_wrData] at h
      obtain ⟨rfl, n, e, rfl⟩ := mem_dataEvents h
      exact ⟨rfl, pcf_bl .., pcf_rw .., by rw [pcf_rs]; simp⟩
    | setBl v =>
      simp only [events_setBl, ackWrite, List.mem_singleton, Event.write.injEq] at h
      obtain ⟨rfl, rfl, -⟩ := h
      cases v <;> simp [backlightByte_eq]
    | wait us => simp at h
  | _ => cases h

/-- Every byte of `es` goes to the device of `c`, has `v` in its backlight bit, and RW = 0 (R37, R92, R93). -/
def CarriesBacklight (c : Configuration) (v : Bool) (es : List Event) : Prop :=
  ∀ d b a, Event.write d b a ∈ es → d = deviceAddr c ∧ b.getLsbD 3 = v ∧ b.getLsbD 1 = false

theorem CarriesBacklight.append {c : Configuration} {v : Bool} {es fs : List Event} (he : CarriesBacklight c v es)
    (hf : CarriesBacklight c v fs) : CarriesBacklight c v (es ++ fs) :=
  fun d b a h => (List.mem_append.1 h).elim (he d b a) (hf d b a)

theorem CarriesBacklight.cut {c : Configuration} {v : Bool} {es : List Event} (h : CarriesBacklight c v es) (n : Nat) :
    CarriesBacklight c v (cutAtWrite n es) := by
  intro d b a hmem
  obtain ⟨a', hmem'⟩ := mem_cutAtWrite hmem
  exact h d b a' hmem'

/-- The bytes of one statement carry FLAGS.BL as the statement leaves it. -/
theorem events_carriesBacklight (x : Act) (s : State) : CarriesBacklight s.cfg (x.planned s).bl (x.events s) := by
  intro d b a h
  obtain ⟨hd, hbl, hrw, -⟩ := mem_events h
  exact ⟨hd, hbl, hrw⟩

/-- A list of statements that does not change FLAGS.BL sends it in every byte. -/
theorem planEvents_carriesBacklight {k : List Act} {s : State} (hk : ∀ x ∈ k, ∀ v, x = .issue (.setBl v) → v = s.bl) :
    CarriesBacklight s.cfg s.bl (planEvents k s) := by
  induction k generalizing s with
  | nil => exact fun _ _ _ h => absurd h List.not_mem_nil
  | cons x k ih =>
    obtain ⟨hx, hrest⟩ := List.forall_mem_cons.1 hk
    obtain ⟨hcfg, -⟩ := x.planned_frame s
    have hbl := planned_bl x s hx
    have hfirst := events_carriesBacklight x s
    have htail := ih (s := x.planned s) (by rwa [hbl])
    rw [hbl] at hfirst
    rw [hbl, hcfg] at htail
    exact hfirst.append htail

/-- The statements of a request that is no SETBL leave FLAGS.BL as it is: INIT writes the value it has (R99). -/
theorem requestPlan_keeps_backlight {i : Instr} {s : State} {k : List Act} (hk : requestPlan s i = .ok k)
    (hsetbl : ∀ v, i ≠ .setbl v) : ∀ x ∈ k, ∀ v, x = .issue (.setBl v) → v = s.bl := by
  intro x hx v hv
  obtain ⟨-, -, hnone, hinit, -⟩ := mem_requestPlan hk hx
  by_cases hi : i = .init
  · exact hinit hi v hv
  · exact absurd hv (hnone hi hsetbl v)

/-- What a host request adds to the trace: nothing when it is rejected, else its list's events, whole or cut at the first ERR. -/
theorem exec_request_trace {i : Instr} (hi : isHostRequest i = true) {s t : State} (h : exec i s = .next t) :
    t.trace = s.trace
      ∨ ∃ k, requestPlan s i = .ok k ∧ (t.trace = s.trace ++ planEvents k s
          ∨ ∃ n < writeCount (planEvents k s), ErrAfter s n ∧ t.trace = s.trace ++ cutAtWrite n (planEvents k s)) := by
  obtain ⟨-, ⟨e, -, rfl⟩ | ⟨k, hk, -, rfl⟩ | ⟨k, n, hk, hn, he, rfl⟩⟩ := exec_request_cases hi h
  · exact .inl rfl
  · obtain ⟨-, -, htrace, -⟩ := planState_frame k s
    exact .inr ⟨k, hk, .inl (congrArg (· ++ _) htrace)⟩
  · obtain ⟨-, -, htrace, -⟩ := planStateAt_frame n k s
    exact .inr ⟨k, hk, .inr ⟨n, hn, he, congrArg (· ++ _) htrace⟩⟩

/-- SETBL is one T.SETBL, which writes the flag whatever the Transport answers (R107, R89). -/
theorem exec_setbl_bl {v : Bool} {s t : State} (h : exec (.setbl v) s = .next t) : t.bl = v := by
  obtain ⟨-, ⟨e, he, -⟩ | ⟨k, hk, -, rfl⟩ | ⟨k, n, hk, hn, -, rfl⟩⟩ := exec_request_cases rfl h
  · cases he
  · cases hk
    exact s.writeBl_bl v
  · cases hk
    obtain rfl : n = 0 := Nat.lt_one_iff.1 hn
    exact s.writeBl_bl v

/-- The bytes a request's list of statements plans carry FLAGS.BL as the request leaves it. -/
theorem requestPlan_carriesBacklight {i : Instr} (hi : isHostRequest i = true) {s t : State} (h : exec i s = .next t)
    {k : List Act} (hk : requestPlan s i = .ok k) : CarriesBacklight s.cfg t.bl (planEvents k s) := by
  by_cases hsetbl : ∀ v, i ≠ .setbl v
  · rw [exec_request_bl hi h hsetbl]
    exact planEvents_carriesBacklight (requestPlan_keeps_backlight hk hsetbl)
  · obtain ⟨v, rfl⟩ := not_forall_not.1 hsetbl
    cases hk
    have hbyte := events_carriesBacklight (.issue (.setBl v)) s
    rw [planned_setBl, State.writeBl_bl] at hbyte
    rw [exec_setbl_bl h]
    exact hbyte

theorem exec_request_carriesBacklight {i : Instr} (hi : isHostRequest i = true) {s t : State} (h : exec i s = .next t) :
    ∃ es, t.trace = s.trace ++ es ∧ CarriesBacklight s.cfg t.bl es := by
  obtain htrace | ⟨k, hk, htrace | ⟨n, -, -, htrace⟩⟩ := exec_request_trace hi h
  · exact ⟨[], htrace.trans (List.append_nil _).symm, fun _ _ _ hmem => absurd hmem List.not_mem_nil⟩
  · exact ⟨_, htrace, requestPlan_carriesBacklight hi h hk⟩
  · exact ⟨_, htrace, (requestPlan_carriesBacklight hi h hk).cut n⟩

/-- What a transport word adds to the trace is its primitive's events, whole or cut. -/
theorem exec_prim_trace {p : Prim} {s t : State} (h : exec p.toInstr s = .next t) :
    ∃ es, t.trace = s.trace ++ es
      ∧ (es = (Act.issue p).events s ∨ ∃ n, es = cutAtWrite n ((Act.issue p).events s)) := by
  obtain ⟨-, -, htrace, -⟩ := (Act.issue p).planned_frame s
  obtain ⟨es, hes, rfl | rfl⟩ := exec_prim_end h <;> exact ⟨es, congrArg (· ++ es) htrace, hes⟩

theorem exec_prim_carriesBacklight {p : Prim} {s t : State} (h : exec p.toInstr s = .next t) :
    ∃ es, t.trace = s.trace ++ es ∧ CarriesBacklight s.cfg t.bl es := by
  have hcarries := events_carriesBacklight (.issue p) s
  rw [← exec_prim_bl h] at hcarries
  obtain ⟨es, htrace, rfl | ⟨n, rfl⟩⟩ := exec_prim_trace h
  · exact ⟨_, htrace, hcarries⟩
  · exact ⟨_, htrace, hcarries.cut n⟩

/-- Settles O26: a host request's list writes FLAGS.BL only by T.SETBL, which is then its one statement or writes the value the flag
has; a transport word is one statement. -/
theorem everyByteCarriesBacklight : Obligations.EveryByteCarriesBacklight := by
  intro i s t h
  cases hi : isHostRequest i with
  | true => exact exec_request_carriesBacklight hi h
  | false =>
    obtain ⟨p, rfl⟩ := exists_prim hi
    exact exec_prim_carriesBacklight h

/-- Settles O27: every byte of a transport word is one its primitive sends, and `mem_events` reads RS off it. -/
theorem registerSelectMarksDataWrites : Obligations.RegisterSelectMarksDataWrites := by
  intro i s t hi h
  obtain ⟨p, rfl⟩ := exists_prim hi
  obtain ⟨es, htrace, hes⟩ := exec_prim_trace h
  refine ⟨es, htrace, fun d b a hmem => ?_⟩
  obtain ⟨a', hmem'⟩ : ∃ a', Event.write d b a' ∈ (Act.issue p).events s := by
    obtain rfl | ⟨n, rfl⟩ := hes
    · exact ⟨a, hmem⟩
    · exact mem_cutAtWrite hmem
  obtain ⟨-, -, -, hrs⟩ := mem_events hmem'
  rw [hrs]
  cases p <;> simp [Prim.toInstr]

/-! ## Framing -/

/-- Settles O28: no instruction makes more than forty writes, so its events are those of whole statements, each framed. -/
theorem ackedEventsAreFramed : Obligations.AckedEventsAreFramed := by
  intro i s t hack h
  cases hi : isHostRequest i with
  | true =>
    obtain htrace | ⟨k, hk, htrace | ⟨n, hn, he, -⟩⟩ := exec_request_trace hi h
    · exact ⟨[], htrace.trans (List.append_nil _).symm, rfl⟩
    · exact ⟨_, htrace, framed_planEvents k s⟩
    · exact (hack.not_errAfter he (hn.trans_le (writeCount_plan_le hk))).elim
  | false =>
    obtain ⟨p, rfl⟩ := exists_prim hi
    have hfew : transportWrites p.toInstr ≤ 40 := (transportWrites_le_four _).trans (by decide)
    obtain ⟨-, -, htrace, -⟩ := (Act.issue p).planned_frame s
    cases h.symm.trans (exec_prim_ack p (hack.mono hfew))
    exact ⟨_, congrArg (· ++ _) htrace, framed_events (.issue p) s⟩

/-! ## Sequences of requests -/

/-- Every host request delivers one status (R129, R139). -/
theorem exec_request_responses {i : Instr} (hi : isHostRequest i = true) {s t : State} (h : exec i s = .next t) :
    ∃ st, t.responses = s.responses ++ [st] := by
  obtain ⟨u, es, st, rfl, rfl | ⟨k, n, -, rfl⟩⟩ := exec_request_end hi h
  · exact ⟨st, rfl⟩
  · obtain ⟨-, -, -, -, -, -, -, hresp⟩ := planStateAt_frame n k s
    exact ⟨st, congrArg (· ++ [st]) hresp⟩

/-- At IDLE of a legal configuration every host request is answered (R129, R153). -/
theorem hostRequest_answered {i : Instr} (hi : isHostRequest i = true) {s : State} (hwf : s.cfg.wf = true)
    (hseq : s.seq = .idle) : ∃ st t, hostRequest i s = some (st, t) ∧ exec i s = .next t := by
  obtain ⟨t, h⟩ := exec_request_next hi hseq
  obtain ⟨st, hst⟩ := exec_request_responses hi h
  exact ⟨st, t, hostRequest_of_exec hwf hi h hst, h⟩

/-- Only SETBL 0 takes the backlight off. -/
theorem exec_request_keeps_backlight_on {i : Instr} (hi : isHostRequest i = true) (hoff : i ≠ .setbl false) {s t : State}
    (h : exec i s = .next t) (hbl : s.bl = true) : t.bl = true := by
  by_cases hon : i = .setbl true
  · subst hon
    exact exec_setbl_bl h
  · refine (exec_request_bl hi h fun v => ?_).trans hbl
    cases v
    · exact hoff
    · exact hon

/-- Settles O46, by induction on the requests: each is answered, keeps the configuration and IDLE, and keeps the backlight on. -/
theorem backlightPersistsOverRequests : Obligations.BacklightPersistsOverRequests := by
  intro is
  induction is with
  | nil =>
    intro s hwf _ hbl _
    exact ⟨[], s, [], if_pos hwf, rfl, hbl, (List.append_nil _).symm, fun _ _ _ h => absurd h List.not_mem_nil⟩
  | cons i is ih =>
    intro s hwf hseq hbl his
    obtain ⟨⟨hi, hoff⟩, hrest⟩ := List.forall_mem_cons.1 his
    obtain ⟨st, t, hreq, hexec⟩ := hostRequest_answered hi hwf hseq
    obtain ⟨hcfg, -, -, hidle⟩ := exec_request_frame hi hexec
    have hon := exec_request_keeps_backlight_on hi hoff hexec hbl
    obtain ⟨es, htrace, hes⟩ := exec_request_carriesBacklight hi hexec
    obtain ⟨sts, u, fs, hreqs, hlen, hblu, htraceu, hfs⟩ := ih t (hcfg ▸ hwf) hidle hon hrest
    refine ⟨st :: sts, u, es ++ fs, ?_, congrArg (· + 1) hlen, hblu, ?_, fun d b a hmem => ?_⟩
    · simp only [hostRequests, hreq, hreqs, Option.map_some]
    · rw [htraceu, htrace, List.append_assoc]
    · rcases List.mem_append.1 hmem with hmem | hmem
      · obtain ⟨-, hbit, -⟩ := hes d b a hmem
        exact hbit.trans hon
      · exact hfs d b a hmem

end Machine

end Sys2Proof
end

section
/-! PROOFS. The Session (41_session.md): what each request checks, sends and writes, and where its writes stand when a write is answered
ERR (R99 to R104, R107 to R112), and the order of GLYPH and PUTCHAR (R116). -/

namespace Sys2Proof.Machine

open Sys2Proof

/-! ## Running a request -/

theorem complete_of_idle {s : State} (hq : s.seq = .idle) (st : Status) :
    s.complete st = { s with responses := s.responses ++ [st] } := by
  rw [State.complete, ← hq]

/-- A request that fails its operand check delivers its status and does nothing else (60_exceptions.md R136). -/
theorem exec_request_rejected {i : Instr} (hi : isHostRequest i = true) {s : State} (hq : s.seq = .idle) {e : Status}
    (hp : requestPlan s i = .error e) : exec i s = .next { s with responses := s.responses ++ [e] } := by
  rw [exec_request hi, hp, ← complete_of_idle hq]
  exact reject_idle hq e

theorem exec_request_ack {i : Instr} (hi : isHostRequest i = true) {s : State} (hq : s.seq = .idle) {k : List Act}
    (hk : requestPlan s i = .ok k) (ha : AllAck s (writeCount (planEvents k s))) :
    exec i s = .next (((planState k s).observed (planEvents k s)).complete .ok) := by
  rw [exec_request hi, hk]
  exact perform_ack hq i k ha

theorem exec_request_err {i : Instr} (hi : isHostRequest i = true) {s : State} (hq : s.seq = .idle) {k : List Act}
    (hk : requestPlan s i = .ok k) {j : Nat} (hj : j < writeCount (planEvents k s)) (he : ErrAfter s j) :
    exec i s = .next (((planStateAt j k s).observed (cutAtWrite j (planEvents k s))).complete .transportError) := by
  rw [exec_request hi, hk]
  exact perform_err hq i k he hj

/-- Both ends of an accepted request, from its plan: the events `es` with their `n` writes, the state writes `u` of the whole operation,
and those made by the time of write `j`, `stop j`. -/
theorem exec_request_of_plan {i : Instr} (hi : isHostRequest i = true) {s : State} (hq : s.seq = .idle) {k : List Act}
    (hk : requestPlan s i = .ok k) {es : List Event} {n : Nat} {u : State} {stop : Nat → State}
    (hes : planEvents k s = es) (hn : writeCount es = n) (hu : planState k s = u)
    (hstop : ∀ j < n, planStateAt j k s = stop j) :
    (AllAck s n → exec i s = .next ((u.observed es).complete .ok))
      ∧ ∀ j < n, ErrAfter s j →
        exec i s = .next (((stop j).observed (cutAtWrite j es)).complete .transportError) := by
  subst hes hn hu
  exact ⟨exec_request_ack hi hq hk, fun j hj he => hstop j hj ▸ exec_request_err hi hq hk hj he⟩

theorem eq_of_exec_request_ack {i : Instr} (hi : isHostRequest i = true) {s t : State} (h : exec i s = .next t) {k : List Act}
    (hk : requestPlan s i = .ok k) (ha : AllAck s (writeCount (planEvents k s))) :
    t = ((planState k s).observed (planEvents k s)).complete .ok := by
  obtain ⟨hq, -⟩ := exec_request_cases hi h
  cases h.symm.trans (exec_request_ack hi hq hk ha)
  rfl

theorem trace_of_exec_request_ack {i : Instr} (hi : isHostRequest i = true) {s t : State} (h : exec i s = .next t)
    {k : List Act} (hk : requestPlan s i = .ok k) (ha : AllAck s (writeCount (planEvents k s))) :
    t.trace = s.trace ++ planEvents k s := by
  obtain ⟨-, -, htrace, -⟩ := planState_frame k s
  rw [eq_of_exec_request_ack hi h hk ha, State.complete_trace, State.observed_trace, htrace]

/-- A request uses up one answer for each of its writes. -/
theorem upcoming_of_exec_request_ack {i : Instr} (hi : isHostRequest i = true) {s t : State} (h : exec i s = .next t)
    {k : List Act} (hk : requestPlan s i = .ok k) (ha : AllAck s (writeCount (planEvents k s))) (j : Nat) :
    t.upcoming j = s.upcoming (writeCount (planEvents k s) + j) := by
  obtain ⟨-, -, -, -, -, hanswers, hdraws, -⟩ := planState_frame k s
  rw [eq_of_exec_request_ack hi h hk ha]
  exact (upcoming_observed (planState k s) _ j).trans (upcoming_congr hanswers hdraws _)

theorem AllAck.after_exec_request {i : Instr} (hi : isHostRequest i = true) {s t : State} (h : exec i s = .next t)
    {k : List Act} (hk : requestPlan s i = .ok k) {n : Nat} (ha : AllAck s (writeCount (planEvents k s) + n)) :
    AllAck t n :=
  fun j hj => (upcoming_of_exec_request_ack hi h hk (ha.mono (by omega)) j).trans (ha _ (by omega))

/-! ## INIT and CLEAR -/

/-- What INIT does before it writes FLAGS.D (R99). -/
def initBeforeDisplay (s : State) : List Act :=
  initHandshake s ++ [.issue (.wrCmd (funcset s.cfg)), .issue (.wrCmd entryMode)]

/-- What INIT does from the write of FLAGS.D on (R99). -/
def initFromDisplay (s : State) : List Act :=
  [.setD true, issueDctl (s.writeD true), .issue (.wrCmd clearDisplay)] ++ homeCursor

theorem initActs_eq_append (s : State) : initActs s = initBeforeDisplay s ++ initFromDisplay s := by
  simp [initActs, initBeforeDisplay, initFromDisplay]

/-- INIT's T.SETBL writes the value FLAGS.BL has, and nothing else before FLAGS.D is a state write. -/
theorem planned_initBeforeDisplay (s : State) : ∀ a ∈ initBeforeDisplay s, a.planned s = s := by
  unfold initBeforeDisplay initHandshake
  split <;> simp [s.writeBl_self]

theorem planStateAt_initBeforeDisplay (s : State) (j : Nat) : planStateAt j (initBeforeDisplay s) s = s :=
  planStateAt_induct (P := (· = s)) rfl (fun a ha _ ht => ht ▸ planned_initBeforeDisplay s a ha) j

theorem planState_initBeforeDisplay (s : State) : planState (initBeforeDisplay s) s = s :=
  planState_induct (P := (· = s)) rfl fun a ha _ ht => ht ▸ planned_initBeforeDisplay s a ha

theorem writeCount_initBeforeDisplay (s : State) :
    writeCount (planEvents (initBeforeDisplay s) s) = if s.cfg.initSwitchNibble then 17 else 15 := by
  unfold initBeforeDisplay initHandshake
  split <;> simp [planEvents, s.writeBl_self]

/-- The cursor and IMPLIED_NL are written after INIT's last two commands, FLAGS.D before them. -/
theorem planStateAt_initFromDisplay (s : State) {j : Nat} (hj : j < 8) :
    planStateAt j (initFromDisplay s) s = s.writeD true := by
  by_cases hctl : j < 4
  · simp [initFromDisplay, planStateAt, hctl]
  · have hclear : j - 4 < 4 := by omega
    simp [initFromDisplay, planStateAt, hctl, hclear]

/-- FLAGS.D is written between the last eight writes of INIT and those before (R99). -/
theorem planStateAt_init (s : State) {j n : Nat} (hn : n = if s.cfg.initSwitchNibble then 25 else 23) (hj : j < n) :
    planStateAt j (initActs s) s = if j < n - 8 then s else s.writeD true := by
  have hcount : writeCount (planEvents (initBeforeDisplay s) s) = n - 8 := by
    rw [writeCount_initBeforeDisplay, hn]
    split <;> rfl
  rw [initActs_eq_append]
  split
  · rw [planStateAt_append_left _ (by omega), planStateAt_initBeforeDisplay]
  · rw [planStateAt_append_right _ (by omega), planState_initBeforeDisplay, planStateAt_initFromDisplay s (by omega)]

/-- Settles O30: the plan of INIT is that of `planEvents_init` and `planState_init`, and `planStateAt_init` says where a cut finds it. -/
theorem initRunsPowerOnSequence : Obligations.InitRunsPowerOnSequence := by
  intro s hq n es
  have hes : planEvents (initActs s) s = es := by rw [planEvents_init, backlightByte_eq]
  have hn : writeCount es = n := by
    rw [← hes, planEvents_init]
    simp only [n]
    split <;> simp
  exact ⟨rfl, exec_request_of_plan rfl hq rfl hes hn (planState_init s) fun j hj => planStateAt_init s rfl hj⟩

/-- Settles O31: the command comes before the three state writes. -/
theorem clearHomesCursor : Obligations.ClearHomesCursor := by
  intro s hq
  exact ⟨rfl, exec_request_of_plan rfl hq rfl (planEvents_clear s) (writeCount_slowCommandEvents s 0x01)
    (planState_clear s) fun j hj => by simp [clearActs, planStateAt, hj]⟩

/-! ## MOVETO -/

theorem requestPlan_moveto_outside {s : State} {col row : BitVec 8} (h : s.cfg.cols ≤ col.toNat ∨ s.cfg.rows ≤ row.toNat) :
    requestPlan s (.moveto col row) = .error .invalidPosition :=
  if_pos h

theorem requestPlan_moveto_inside {s : State} {col row : BitVec 8} (hcol : col.toNat < s.cfg.cols)
    (hrow : row.toNat < s.cfg.rows) : requestPlan s (.moveto col row) = .ok (movetoActs s.cfg col row) :=
  if_neg (by omega)

/-- Settles O32: the cursor is written before the one command, so every cut finds it moved. -/
theorem movetoMovesThenCommands : Obligations.MovetoMovesThenCommands := by
  intro col row s hq moved es
  refine ⟨rfl, fun hout => exec_request_rejected rfl hq (requestPlan_moveto_outside hout), fun hcol hrow => ?_⟩
  exact exec_request_of_plan rfl hq (requestPlan_moveto_inside hcol hrow) (planEvents_moveto s col row)
    (writeCount_commandEvents s _) (planState_moveto s col row) fun j _ => by simp [movetoActs, planStateAt, moved]

/-! ## PUTCHAR -/

/-- The column, row and IMPLIED_NL that steps 3 and 4 of PUTCHAR leave, after step 1 or 2 has put the cursor at column `x` (R104). -/
theorem wrapped_eq (s : State) (x : Nat) (isLineFeed : Bool) :
    wrapped (s.withCursorX (BitVec.ofNat 8 x)) x s.cursorY.toNat isLineFeed
      = ((s.withCursorX (BitVec.ofNat 8 (wrapColumn s.cfg x))).withCursorY
          (BitVec.ofNat 2 (wrapRow s.cfg x s.cursorY.toNat))).withImpliedNl
            (if x ≥ s.cfg.cols then !isLineFeed else s.impliedNl) := by
  unfold wrapped wrapColumn wrapRow stepRow
  by_cases hwrap : x ≥ s.cfg.cols
  · by_cases hlast : s.cursorY.toNat + 1 ≥ s.cfg.rows <;>
      simp [hwrap, hlast, State.withCursorX, State.withCursorY, State.withImpliedNl]
  · by_cases hlast : s.cursorY.toNat ≥ s.cfg.rows <;>
      simp [hwrap, hlast, State.withCursorX, State.withCursorY, State.withImpliedNl]

theorem requestPlan_putchar_unmapped {s : State} {cp : Codepoint} (hcp : cp ≠ lineFeed) (hg : charMap s.cfg cp = none) :
    requestPlan s (.putchar cp) = .error .invalidCharacter := by
  simp only [requestPlan, if_neg hcp, hg]

theorem requestPlan_putchar_mapped {s : State} {cp : Codepoint} (hcp : cp ≠ lineFeed) {g : Byte}
    (hg : charMap s.cfg cp = some g) : requestPlan s (.putchar cp) = .ok (characterActs g s) := by
  simp only [requestPlan, if_neg hcp, hg]

theorem requestPlan_lineFeed {s : State} (hnl : s.impliedNl = false) :
    requestPlan s (.putchar lineFeed) = .ok (lineFeedActs s) := by
  simp [requestPlan, hnl]

theorem requestPlan_lineFeed_suppressed {s : State} (hnl : s.impliedNl = true) :
    requestPlan s (.putchar lineFeed) = .ok [.setImpliedNl false] := by
  simp [requestPlan, hnl]

theorem writeCount_character (s : State) (g : Byte) : writeCount (planEvents (characterActs g s) s) = 8 := by
  simp [planEvents_character]

/-- The cursor advances between the four writes of the data byte and those of the command (R102). -/
theorem planStateAt_character (s : State) (g : Byte) (j : Nat) :
    planStateAt j (characterActs g s) s = if j < 4 then s else planState (characterActs g s) s := by
  rw [characterActs, planStateAt, events_wrData, writeCount_dataEvents]
  refine if_congr Iff.rfl rfl ?_
  exact (planStateAt_wrap _ (s.withCursorX _) _ _ _).trans (planState_character s g).symm

/-- The cursor has moved before the one command of a line-feed (R102). -/
theorem planStateAt_lineFeed (s : State) (j : Nat) : planStateAt j (lineFeedActs s) s = planState (lineFeedActs s) s :=
  (planStateAt_wrap j (s.withCursorX _) _ _ _).trans (planState_lineFeed s).symm

/-- Settles O33: the plan's column and row are those of `wrapColumn` and `wrapRow`. -/
theorem putcharWritesAndAdvances : Obligations.PutcharWritesAndAdvances := by
  intro cp s hq hcp x wraps x' y₁ y' moved
  refine ⟨rfl, fun hnone => exec_request_rejected rfl hq (requestPlan_putchar_unmapped hcp hnone), fun g hg => ?_⟩
  intro es
  have hx : wrapColumn s.cfg x = x' := by simp [wrapColumn, x', wraps]
  have hy : wrapRow s.cfg x s.cursorY.toNat = y' := by simp [wrapRow, stepRow, y', y₁, wraps]
  have hmoved : planState (characterActs g s) s = moved := by
    have hnl : (if x ≥ s.cfg.cols then !false else s.impliedNl) = (wraps || s.impliedNl) := by
      by_cases hwrap : s.cfg.cols ≤ x <;> simp [wraps, hwrap]
    rw [planState_character, wrapped_eq, hx, hy, hnl]
  have hes : planEvents (characterActs g s) s = es := by rw [planEvents_character, hx, hy]
  exact exec_request_of_plan rfl hq (requestPlan_putchar_mapped hcp hg) hes (by simp [es]) hmoved
    fun j _ => hmoved ▸ planStateAt_character s g j

/-- Settles O34: a line-feed is a wrap forced from column COLS. -/
theorem lineFeedMovesToNextRow : Obligations.LineFeedMovesToNextRow := by
  intro s hq hnl y' moved es
  have hx : wrapColumn s.cfg s.cfg.cols = 0 := by simp [wrapColumn]
  have hy : wrapRow s.cfg s.cfg.cols s.cursorY.toNat = y' := by simp [wrapRow, stepRow, y']
  have hmoved : planState (lineFeedActs s) s = moved := by
    rw [planState_lineFeed, wrapped_eq, hx, hy, if_pos (Nat.le_refl _), Bool.not_true, ← hnl]
    rfl
  have hes : planEvents (lineFeedActs s) s = es := by rw [planEvents_lineFeed, hx, hy]
  exact exec_request_of_plan rfl hq (requestPlan_lineFeed hnl) hes (by simp [es]) hmoved
    fun j _ => (planStateAt_lineFeed s j).trans hmoved

/-- Settles O35: the one statement is a state write, so no answer is drawn. -/
theorem suppressedLineFeedOnlyClearsFlag : Obligations.SuppressedLineFeedOnlyClearsFlag := by
  intro s hq hnl
  have hrun := exec_request_ack rfl hq (requestPlan_lineFeed_suppressed hnl) fun j hj => absurd hj j.not_lt_zero
  refine hrun.trans ?_
  simp only [planState, planEvents, planned_setImpliedNl, events_setImpliedNl, List.append_nil, observed_nil]
  rw [complete_of_idle (s := s.withImpliedNl false) hq]
  rfl

/-! ## The flag operations -/

/-- Settles O36: T.SETBL writes the flag first (R89). -/
theorem setblWritesBacklight : Obligations.SetblWritesBacklight := by
  intro v s hq
  obtain ⟨hack, herr⟩ := exec_request_of_plan (i := .setbl v) (stop := fun _ => s.writeBl v) rfl hq rfl rfl rfl rfl
    fun j _ => by simp [planStateAt]
  rw [← backlightByte_eq]
  exact ⟨rfl, hack, fun h => herr 0 Nat.one_pos ⟨fun j hj => absurd hj j.not_lt_zero, h⟩⟩

/-- Settles O37: the flag is written before the command, which has the new value. -/
theorem setdispWritesDisplayFlag : Obligations.SetdispWritesDisplayFlag := by
  intro v s hq es
  exact ⟨rfl, exec_request_of_plan rfl hq rfl (by simp [planEvents, es]) (writeCount_commandEvents s _) rfl
    fun j _ => by simp [planStateAt]⟩

/-- Settles O38: the flag is written before the command, which has the new value. -/
theorem setcursorWritesCursorFlag : Obligations.SetcursorWritesCursorFlag := by
  intro v s hq es
  exact ⟨rfl, exec_request_of_plan rfl hq rfl (by simp [planEvents, es]) (writeCount_commandEvents s _) rfl
    fun j _ => by simp [planStateAt]⟩

/-- Settles O39: the flag is written before the command, which has the new value. -/
theorem setblinkWritesBlinkFlag : Obligations.SetblinkWritesBlinkFlag := by
  intro v s hq es
  exact ⟨rfl, exec_request_of_plan rfl hq rfl (by simp [planEvents, es]) (writeCount_commandEvents s _) rfl
    fun j _ => by simp [planStateAt]⟩

/-- The requests that write one flag of FLAGS (R107 to R110). -/
def isFlagOperation : Instr → Bool
  | .setbl _ | .setdisp _ | .setcursor _ | .setblink _ => true
  | .init | .clear | .putchar _ | .moveto _ _ | .glyph _ _ => false
  | .tWrinit _ | .tWrcmd _ | .tWrdata _ | .tSetbl _ | .tWait _ => false

theorem isHostRequest_of_isFlagOperation {i : Instr} (hi : isFlagOperation i = true) : isHostRequest i = true := by
  cases i with
  | setbl v | setdisp v | setcursor v | setblink v => rfl
  | _ => cases hi

/-- A flag operation has no operand check to fail, and makes at most the four writes of one command. -/
theorem flagOperation_plan {i : Instr} (hi : isFlagOperation i = true) (s : State) :
    ∃ k, requestPlan s i = .ok k ∧ writeCount (planEvents k s) ≤ 4 := by
  cases i with
  | setbl v | setdisp v | setcursor v | setblink v => exact ⟨_, rfl, by simp [planEvents]⟩
  | _ => cases hi

/-- After a flag operation the same one has the same list of statements, which sends the same events and finds the flag at the value
it writes. -/
theorem flagOperation_again {i : Instr} (hi : isFlagOperation i = true) {s t : State} {k : List Act}
    (hk : requestPlan s i = .ok k) {es : List Event} {st : Status} (ht : t = ((planState k s).observed es).complete st) :
    requestPlan t i = .ok k ∧ planEvents k t = planEvents k s ∧ (planState k t).flags = t.flags := by
  subst ht
  cases i with
  | setbl v => cases hk; exact ⟨rfl, rfl, by simp [planState]⟩
  | setdisp v | setcursor v | setblink v =>
    cases hk
    exact ⟨by simp [requestPlan, planState, issueDctl, dctl_eq], by simp [planEvents, planState], by simp [planState]⟩
  | _ => cases hi

/-- Settles O45: both runs are of one list of statements (`flagOperation_again`). -/
theorem flagOperationsAreIdempotent : Obligations.FlagOperationsAreIdempotent := by
  intro i s t u hflag hack ht hu
  have hi : isFlagOperation i = true := by
    rcases hflag with ⟨v, rfl⟩ | ⟨v, rfl⟩ | ⟨v, rfl⟩ | ⟨v, rfl⟩ <;> rfl
  have hreq := isHostRequest_of_isFlagOperation hi
  obtain ⟨k, hk, hfew⟩ := flagOperation_plan hi s
  have hfirst : AllAck s (writeCount (planEvents k s)) := hack.mono (by omega)
  have htrun := eq_of_exec_request_ack hreq ht hk hfirst
  obtain ⟨hk', hes, hflags⟩ := flagOperation_again hi hk htrun
  have hack' : AllAck t (writeCount (planEvents k t)) := by
    rw [hes]
    exact AllAck.after_exec_request hreq ht hk (hack.mono (by omega))
  have hurun := eq_of_exec_request_ack hreq hu hk' hack'
  obtain ⟨hx, hy⟩ := exec_request_cursor hreq hu (by rintro rfl; cases hi) (by rintro rfl; cases hi)
    (by rintro _ _ rfl; cases hi) (by rintro _ rfl; cases hi)
  have hnl := exec_request_impliedNl hreq hu (by rintro rfl; cases hi) (by rintro rfl; cases hi) (by rintro _ rfl; cases hi)
  obtain ⟨-, -, -, hidle⟩ := exec_request_frame hreq ht
  obtain ⟨-, -, -, hidle'⟩ := exec_request_frame hreq hu
  refine ⟨hurun ▸ hflags, hx, hy, hnl, hidle'.trans hidle.symm, planEvents k s, ?_, ?_⟩
  · exact trace_of_exec_request_ack hreq ht hk hfirst
  · exact hes ▸ trace_of_exec_request_ack hreq hu hk' hack'

/-! ## GLYPH -/

theorem requestPlan_glyph_outside {s : State} {slot : BitVec 8} (h : 7 < slot.toNat) (p : Vector Byte 8) :
    requestPlan s (.glyph slot p) = .error .invalidGlyphSlot :=
  if_pos h

theorem requestPlan_glyph_inside {s : State} {slot : BitVec 8} (h : slot.toNat ≤ 7) (p : Vector Byte 8) :
    requestPlan s (.glyph slot p) = .ok (glyphActs slot p s) :=
  if_neg (by omega)

theorem setCgram_of_le {slot : BitVec 8} (h : slot.toNat ≤ 7) : setCgram slot = BitVec.ofNat 8 (0x40 + 8 * slot.toNat) := by
  apply BitVec.eq_of_toNat_eq
  rw [setCgram_toNat, BitVec.toNat_ofNat]
  omega

theorem pattern_toList (p : Vector Byte 8) : p.toList = [p[0], p[1], p[2], p[3], p[4], p[5], p[6], p[7]] := by
  refine List.ext_getElem (by simp) fun i h _ => ?_
  have hi : i < 8 := by simpa using h
  interval_cases i <;> simp

/-- No statement of GLYPH is a state write (R111). -/
theorem planStateAt_glyph (s : State) (slot : BitVec 8) (p : Vector Byte 8) (j : Nat) :
    planStateAt j (glyphActs slot p s) s = s := by
  refine planStateAt_induct (P := (· = s)) rfl (fun a ha t ht => ?_) j
  simp only [glyphActs, syncAddr, List.cons_append, List.mem_cons, List.mem_append, List.mem_map, List.not_mem_nil,
    or_false] at ha
  obtain rfl | ⟨b, -, rfl⟩ | rfl := ha <;> exact ht

theorem writeCount_glyph (s : State) (slot : BitVec 8) (p : Vector Byte 8) :
    writeCount (planEvents (glyphActs slot p s) s) = 40 := by
  simp [planEvents_glyph, writeCount_flatMap_dataEvents]

/-- Settles O40: the plan of GLYPH is that of `planEvents_glyph`, and it writes no state. -/
theorem glyphUploadsThenRestoresAddress : Obligations.GlyphUploadsThenRestoresAddress := by
  intro slot p s hq es
  refine ⟨rfl, fun hout => exec_request_rejected rfl hq (requestPlan_glyph_outside hout p), fun hslot => ?_⟩
  have hes : planEvents (glyphActs slot p s) s = es := by
    simp [planEvents_glyph, pattern_toList, setCgram_of_le hslot, es]
  exact exec_request_of_plan rfl hq (requestPlan_glyph_inside hslot p) hes (hes ▸ writeCount_glyph s slot p)
    (planState_glyph s slot p) fun j _ => planStateAt_glyph s slot p j

/-! ## The cursor after a character -/

theorem wrapColumn_lt {c : Configuration} (hc : c.Legal) (x : Nat) : wrapColumn c x < c.cols := by
  have hcols := hc.cols_pos
  unfold wrapColumn
  split <;> omega

theorem wrapRow_lt {c : Configuration} (hc : c.Legal) (x y : Nat) : wrapRow c x y < c.rows := by
  have hrows := hc.rows_pos
  unfold wrapRow
  split <;> omega

/-- With its writes ACKed a mapped character sends its code and the address of the cell it moves the cursor to (R102, R104). -/
theorem exec_character_ack {cp : Codepoint} (hcp : cp ≠ lineFeed) {s t : State} {g : Byte} (hg : charMap s.cfg cp = some g)
    (ha : AllAck s 8) (h : exec (.putchar cp) s = .next t) :
    t = ((((s.withCursorX (BitVec.ofNat 8 (wrapColumn s.cfg (s.cursorX.toNat + 1)))).withCursorY
          (BitVec.ofNat 2 (wrapRow s.cfg (s.cursorX.toNat + 1) s.cursorY.toNat))).withImpliedNl
            (if s.cursorX.toNat + 1 ≥ s.cfg.cols then true else s.impliedNl)).observed
          (dataEvents s g ++ commandEvents s (setDdram (ddramAddr s.cfg (wrapColumn s.cfg (s.cursorX.toNat + 1))
            (wrapRow s.cfg (s.cursorX.toNat + 1) s.cursorY.toNat))))).complete .ok := by
  have hk := requestPlan_putchar_mapped hcp hg
  rw [eq_of_exec_request_ack rfl h hk (by rwa [writeCount_character]), planState_character, wrapped_eq, planEvents_character]
  rfl

/-- In a legal configuration the cursor's registers hold the new column and row exactly. -/
theorem exec_character_cursor {cp : Codepoint} (hcp : cp ≠ lineFeed) {s t : State} (hc : s.cfg.Legal) {g : Byte}
    (hg : charMap s.cfg cp = some g) (ha : AllAck s 8) (h : exec (.putchar cp) s = .next t) :
    t.cursorX.toNat = wrapColumn s.cfg (s.cursorX.toNat + 1)
      ∧ t.cursorY.toNat = wrapRow s.cfg (s.cursorX.toNat + 1) s.cursorY.toNat := by
  have hx := wrapColumn_lt hc (s.cursorX.toNat + 1)
  have hy := wrapRow_lt hc (s.cursorX.toNat + 1) s.cursorY.toNat
  have hcols := hc.cols_le
  have hrows := hc.rows_le
  rw [exec_character_ack hcp hg ha h]
  exact ⟨Nat.mod_eq_of_lt (by omega), Nat.mod_eq_of_lt (by omega)⟩

/-- The command's address is that of the cell the cursor is on afterwards. -/
theorem exec_character_trace {cp : Codepoint} (hcp : cp ≠ lineFeed) {s t : State} (hc : s.cfg.Legal) {g : Byte}
    (hg : charMap s.cfg cp = some g) (ha : AllAck s 8) (h : exec (.putchar cp) s = .next t) :
    t.trace = s.trace
      ++ (dataEvents s g ++ commandEvents s (setDdram (ddramAddr s.cfg t.cursorX.toNat t.cursorY.toNat))) := by
  obtain ⟨hx, hy⟩ := exec_character_cursor hcp hc hg ha h
  rw [hx, hy, exec_character_ack hcp hg ha h]
  rfl

/-! ## GLYPH and then PUTCHAR -/

/-- Settles O50: GLYPH's last events are the set-DDRAM command, PUTCHAR's first are the data write. -/
theorem glyphThenPrintRestoresAddressFirst : Obligations.GlyphThenPrintRestoresAddressFirst := by
  intro p s t u hs hack ht hu
  have hc := (Configuration.wf_iff s.cfg).1 hs.legal
  have hg : charMap s.cfg 3 = some 0x03 := (charMapLookup s.cfg 3 hs.legal).1 (by decide)
  have hplan : requestPlan s (.glyph 3 p) = .ok (glyphActs 3 p s) := requestPlan_glyph_inside (by decide) p
  have hcount := writeCount_glyph s 3 p
  have htrun := eq_of_exec_request_ack rfl ht hplan (hack.mono (by omega))
  rw [planState_glyph] at htrun
  have hack' : AllAck t 8 := AllAck.after_exec_request rfl ht hplan (hack.mono (by omega))
  have hcfg : t.cfg = s.cfg := htrun ▸ rfl
  have hprint := exec_character_trace (by decide) (hcfg ▸ hc) (hcfg ▸ hg) hack' hu
  have hslot : setCgram 3 = 0x58 := rfl
  refine ⟨_, _, ?_, rfl, rfl⟩
  rw [hprint, htrun, State.complete_trace, State.observed_trace, planEvents_glyph, hslot]
  simp

end Sys2Proof.Machine
end

section
/-! PROOFS. PUTSTR (41_session.md R106): where it stops, its cursor arithmetic (R113), and a line-feed after a wrap (R115). -/

namespace Sys2Proof.Machine

open Sys2Proof

/-! ## Where a sequence of requests stops -/

/-- A sequence of requests that ends OK has issued every one; one that does not ends with the status of request `n`, after the `n`
before it ended OK. -/
theorem hostSequence_stops {is : List Instr} {s t : State} {st : Status} {n : Nat} (h : hostSequence is s = some ((st, n), t)) :
    (st = .ok → n = is.length)
      ∧ (st ≠ .ok → ∃ u i, hostSequence (is.take n) s = some ((.ok, n), u) ∧ is[n]? = some i
        ∧ hostRequest i u = some (st, t)) := by
  induction is generalizing s n with
  | nil =>
    simp only [hostSequence, Option.ite_none_right_eq_some, Option.some.injEq, Prod.mk.injEq] at h
    obtain ⟨-, ⟨rfl, rfl⟩, -⟩ := h
    exact ⟨fun _ => rfl, fun hne => absurd rfl hne⟩
  | cons i is ih =>
    simp only [hostSequence] at h
    split at h
    · cases h
    · rename_i v hreq
      simp only [Option.map_eq_some_iff, Prod.mk.injEq] at h
      obtain ⟨⟨⟨st', m⟩, t'⟩, hrest, ⟨rfl, rfl⟩, rfl⟩ := h
      obtain ⟨hok, hstop⟩ := ih hrest
      refine ⟨fun heq => congrArg (· + 1) (hok heq), fun hne => ?_⟩
      obtain ⟨u, j, htake, hj, hlast⟩ := hstop hne
      exact ⟨u, j, by simp [hostSequence, hreq, htake], by simpa using hj, hlast⟩
    · rename_i hne hreq
      simp only [Option.some.injEq, Prod.mk.injEq] at h
      obtain ⟨⟨rfl, rfl⟩, rfl⟩ := h
      obtain ⟨hwf, -⟩ := hostRequest_eq_some hreq
      exact ⟨fun heq => absurd heq (by rintro rfl; exact hne rfl), fun _ => ⟨s, i, if_pos hwf, rfl, hreq⟩⟩

/-- Settles O47: PUTSTR is the sequence of its characters' PUTCHARs. -/
theorem putStringStopsAtFirstError : Obligations.PutStringStopsAtFirstError := by
  intro cps s t st n h
  obtain ⟨hok, hstop⟩ := hostSequence_stops h
  refine ⟨fun heq => by simpa using hok heq, fun hne => ?_⟩
  obtain ⟨u, i, htake, hi, hreq⟩ := hstop hne
  rw [List.getElem?_map, Option.map_eq_some_iff] at hi
  obtain ⟨cp, hcp, rfl⟩ := hi
  exact ⟨u, cp, by rw [putString, List.map_take]; exact htake, hcp, hreq⟩

/-! ## Data bytes and command bytes -/

/-- A byte for the data register: RS = 1. -/
def Event.isDataByte : Event → Bool
  | .write _ b _ => b.getLsbD 0
  | .wait _ => false

/-- A byte for the instruction register: RS = 0. -/
def Event.isCommandByte : Event → Bool
  | .write _ b _ => !b.getLsbD 0
  | .wait _ => false

@[simp] theorem isDataByte_ackWrite (s : State) (bl : Bool) (n : Nibble) (rs e : Bool) :
    (ackWrite s (pcf bl n rs e)).isDataByte = rs := pcf_rs bl n rs e

@[simp] theorem isCommandByte_ackWrite (s : State) (bl : Bool) (n : Nibble) (rs e : Bool) :
    (ackWrite s (pcf bl n rs e)).isCommandByte = !rs := congrArg (!·) (pcf_rs bl n rs e)

@[simp] theorem isDataByte_wait (us : Micros) : (Event.wait us).isDataByte = false := rfl
@[simp] theorem isCommandByte_wait (us : Micros) : (Event.wait us).isCommandByte = false := rfl

theorem countP_dataEvents (s : State) (v : Byte) :
    (dataEvents s v).countP Event.isDataByte = 4 ∧ (dataEvents s v).countP Event.isCommandByte = 0 := by
  simp [dataEvents, valueEvents]

theorem countP_commandEvents (s : State) (v : Byte) :
    (commandEvents s v).countP Event.isDataByte = 0 ∧ (commandEvents s v).countP Event.isCommandByte = 4 := by
  simp [commandEvents, valueEvents]

/-! ## The cursor arithmetic -/

/-- `t` is `s` after `n` mapped characters, no line-feed among them, with every write ACKed (R113). -/
structure Advanced (s : State) (n : Nat) (t : State) : Prop where
  cfg : t.cfg = s.cfg
  column : t.cursorX.toNat = (s.cursorX.toNat + n) % s.cfg.cols
  row : t.cursorY.toNat = (s.cursorY.toNat + (s.cursorX.toNat + n) / s.cfg.cols) % s.cfg.rows
  impliedNl : t.impliedNl = (s.impliedNl || decide (s.cfg.cols ≤ s.cursorX.toNat + n))
  upcoming : ∀ j, t.upcoming j = s.upcoming (8 * n + j)
  sent : ∃ es, t.trace = s.trace ++ es ∧ es.countP Event.isDataByte = 4 * n ∧ es.countP Event.isCommandByte = 4 * n

theorem Advanced.refl {s : State} (hs : Boundary s) : Advanced s 0 s where
  cfg := rfl
  column := (Nat.mod_eq_of_lt hs.column).symm
  row := by rw [Nat.add_zero, Nat.div_eq_of_lt hs.column, Nat.add_zero, Nat.mod_eq_of_lt hs.row]
  impliedNl := by simp [hs.column]
  upcoming := fun j => by rw [Nat.mul_zero, Nat.zero_add]
  sent := ⟨[], (List.append_nil _).symm, rfl, rfl⟩

/-- Going on from where the cursor wrapped to crosses as many row ends as going on without a wrap. -/
theorem div_add_mod_add_div (a b c : Nat) : a / c + (a % c + b) / c = (a + b) / c := by
  rcases Nat.eq_zero_or_pos c with rfl | hc
  · simp
  · rw [Nat.add_comm, ← Nat.add_mul_div_left _ _ hc, Nat.add_right_comm, Nat.mod_add_div]

/-- A run has passed the end of its row when its first part has, or its second part has from where the first one ended. -/
theorem or_le_mod_add (a b c : Nat) : (decide (c ≤ a) || decide (c ≤ a % c + b)) = decide (c ≤ a + b) := by
  rcases Nat.lt_or_ge a c with h | h
  · rw [Nat.mod_eq_of_lt h, decide_eq_false (Nat.not_le.2 h), Bool.false_or]
  · rw [decide_eq_true h, decide_eq_true (Nat.le_add_right_of_le h), Bool.true_or]

theorem Advanced.trans {s t u : State} {m n : Nat} (hst : Advanced s m t) (htu : Advanced t n u) : Advanced s (m + n) u := by
  obtain ⟨es, htrace, hdata, hcommand⟩ := hst.sent
  obtain ⟨fs, htrace', hdata', hcommand'⟩ := htu.sent
  refine ⟨htu.cfg.trans hst.cfg, ?_, ?_, ?_, fun j => ?_, es ++ fs, ?_, ?_, ?_⟩
  · rw [htu.column, hst.cfg, hst.column, Nat.mod_add_mod, Nat.add_assoc]
  · rw [htu.row, hst.cfg, hst.row, hst.column, Nat.mod_add_mod, Nat.add_assoc, div_add_mod_add_div, Nat.add_assoc]
  · rw [htu.impliedNl, hst.cfg, hst.impliedNl, hst.column, Bool.or_assoc, or_le_mod_add, Nat.add_assoc]
  · rw [htu.upcoming, hst.upcoming, Nat.mul_add, Nat.add_assoc]
  · rw [htrace', htrace, List.append_assoc]
  · rw [List.countP_append, hdata, hdata', Nat.mul_add]
  · rw [List.countP_append, hcommand, hcommand', Nat.mul_add]

theorem wrapColumn_eq_mod {c : Configuration} {x : Nat} (hx : x ≤ c.cols) : wrapColumn c x = x % c.cols := by
  unfold wrapColumn
  rcases Nat.lt_or_eq_of_le hx with h | h
  · rw [if_neg (Nat.not_le.2 h), Nat.mod_eq_of_lt h]
  · rw [if_pos (Nat.le_of_eq h.symm), h, Nat.mod_self]

theorem wrapRow_eq_mod {c : Configuration} (hc : c.Legal) {x y : Nat} (hx : x ≤ c.cols) (hy : y < c.rows) :
    wrapRow c x y = (y + x / c.cols) % c.rows := by
  have hstep : stepRow c x y = y + x / c.cols := by
    unfold stepRow
    rcases Nat.lt_or_eq_of_le hx with h | h
    · rw [if_neg (Nat.not_le.2 h), Nat.div_eq_of_lt h, Nat.add_zero]
    · rw [if_pos (Nat.le_of_eq h.symm), h, Nat.div_self hc.cols_pos]
  have hle : y + x / c.cols ≤ c.rows := by
    have := Nat.div_le_of_le_mul (n := 1) (by omega : x ≤ c.cols * 1)
    omega
  unfold wrapRow
  rw [hstep]
  rcases Nat.lt_or_eq_of_le hle with h | h
  · rw [if_neg (Nat.not_le.2 h), Nat.mod_eq_of_lt h]
  · rw [if_pos (Nat.le_of_eq h.symm), h, Nat.mod_self]

/-- One mapped character with its eight writes ACKed. -/
theorem advanced_of_exec_character {cp : Codepoint} (hcp : cp ≠ lineFeed) {s t : State} (hs : Boundary s) {g : Byte}
    (hg : charMap s.cfg cp = some g) (ha : AllAck s 8) (h : exec (.putchar cp) s = .next t) : Advanced s 1 t := by
  have hc := (Configuration.wf_iff s.cfg).1 hs.legal
  have hcol : s.cursorX.toNat + 1 ≤ s.cfg.cols := hs.column
  obtain ⟨hx, hy⟩ := exec_character_cursor hcp hc hg ha h
  obtain ⟨hcfg, -⟩ := exec_request_frame rfl h
  obtain ⟨hdata, hdata'⟩ := countP_dataEvents s g
  obtain ⟨hcommand, hcommand'⟩ := countP_commandEvents s (setDdram (ddramAddr s.cfg t.cursorX.toNat t.cursorY.toNat))
  refine ⟨hcfg, ?_, ?_, ?_, fun j => ?_, _, exec_character_trace hcp hc hg ha h, ?_, ?_⟩
  · rw [hx, wrapColumn_eq_mod hcol]
  · rw [hy, wrapRow_eq_mod hc hcol hs.row]
  · rw [exec_character_ack hcp hg ha h]
    by_cases hwrap : s.cfg.cols ≤ s.cursorX.toNat + 1 <;> simp [hwrap]
  · have hplan := requestPlan_putchar_mapped hcp hg
    rw [upcoming_of_exec_request_ack rfl h hplan (by rwa [writeCount_character]), writeCount_character]
  · rw [List.countP_append, hdata, hcommand]
  · rw [List.countP_append, hdata', hcommand']

theorem hostRequest_character {cp : Codepoint} (hcp : cp ≠ lineFeed) {s : State} (hs : Boundary s)
    (hg : charMap s.cfg cp ≠ none) (ha : AllAck s 8) :
    ∃ t, hostRequest (.putchar cp) s = some (.ok, t) ∧ Boundary t ∧ Advanced s 1 t := by
  obtain ⟨g, hg⟩ := Option.ne_none_iff_exists'.1 hg
  obtain ⟨t, h⟩ := exec_request_next (i := .putchar cp) rfl hs.idle
  refine ⟨t, hostRequest_of_exec (before := s.responses) hs.legal rfl h ?_, exec_keeps_boundary hs h,
    advanced_of_exec_character hcp hs hg ha h⟩
  rw [exec_character_ack hcp hg ha h]
  rfl

/-- A string of mapped characters with every write ACKed, character by character. -/
theorem putString_advances {cps : List Codepoint} {s : State} (hs : Boundary s)
    (hcps : ∀ cp ∈ cps, cp ≠ lineFeed ∧ charMap s.cfg cp ≠ none) (ha : AllAck s (8 * cps.length)) :
    ∃ t, putString cps s = some ((.ok, cps.length), t) ∧ Boundary t ∧ Advanced s cps.length t := by
  induction cps generalizing s with
  | nil => exact ⟨s, if_pos hs.legal, hs, .refl hs⟩
  | cons cp cps ih =>
    obtain ⟨⟨hcp, hg⟩, hrest⟩ := List.forall_mem_cons.1 hcps
    rw [List.length_cons] at ha
    obtain ⟨t, hreq, ht, hone⟩ := hostRequest_character hcp hs hg (ha.mono (by omega))
    obtain ⟨u, hput, hu, hmany⟩ := ih ht (hone.cfg ▸ hrest) fun j hj => (hone.upcoming j).trans (ha _ (by omega))
    refine ⟨u, ?_, hu, ?_⟩
    · simp only [putString] at hput
      simp only [putString, List.map_cons, hostSequence, hreq, hput, Option.map_some, List.length_cons]
    · rw [List.length_cons, Nat.add_comm]
      exact hone.trans hmany

/-- Settles O48: the cursor arithmetic is that of `Advanced`. -/
theorem putStringCursorArithmetic : Obligations.PutStringCursorArithmetic := by
  intro cps s hs hcps ha
  obtain ⟨t, hput, -, hadv⟩ := putString_advances hs hcps ha
  obtain ⟨es, htrace, hdata, hcommand⟩ := hadv.sent
  exact ⟨t, es, hput, hadv.column, hadv.row, hadv.impliedNl, htrace, hdata, hcommand⟩

/-! ## A line-feed after a wrap -/

/-- A suppressed line-feed at the end of a string that ended OK only clears IMPLIED_NL (R103). -/
theorem putString_append_suppressed_lineFeed {cps : List Codepoint} {s t : State} {n : Nat} (ht : Boundary t)
    (hnl : t.impliedNl = true) (h : putString cps s = some ((.ok, n), t)) :
    putString (cps ++ [lineFeed]) s
      = some ((.ok, n + 1), { t with impliedNl := false, responses := t.responses ++ [.ok] }) := by
  have hreq : hostRequest (.putchar lineFeed) t = some (.ok, _) :=
    hostRequest_of_exec ht.legal rfl (suppressedLineFeedOnlyClearsFlag t ht.idle hnl) rfl
  rw [putString, List.map_append, hostSequence_append _ _ h]
  simp [hostSequence, hreq, ht.legal, Nat.add_comm]

/-- Settles O49: COLS characters from column 0 end in a wrap, which suppresses the line-feed. -/
theorem wrapThenFeedIsWrapAlone : Obligations.WrapThenFeedIsWrapAlone := by
  intro cps s hs hzero hlen hcps ha
  obtain ⟨t, hput, ht, hadv⟩ := putString_advances hs hcps ha
  have hc := (Configuration.wf_iff s.cfg).1 hs.legal
  have hend : s.cursorX.toNat + cps.length = s.cfg.cols := by rw [hzero, hlen]; exact Nat.zero_add _
  have hnl : t.impliedNl = true := by rw [hadv.impliedNl, hend]; simp
  have hx : t.cursorX = 0 := BitVec.eq_of_toNat_eq (by rw [hadv.column, hend, Nat.mod_self]; rfl)
  have hy : t.cursorY.toNat = (s.cursorY.toNat + 1) % s.cfg.rows := by rw [hadv.row, hend, Nat.div_self hc.cols_pos]
  exact ⟨t, _, hput, putString_append_suppressed_lineFeed ht hnl hput, rfl, hx, hx, rfl, hy, hnl, rfl⟩

end Sys2Proof.Machine
end

section
/-! PROOFS. Exceptions (60_exceptions.md): the one status a host request ends with (R129, R135), and that a validation error has no other
effect (R136). -/

namespace Sys2Proof.Machine

open Sys2Proof

/-! ## How a request ends -/

/-- The three ends of a host request by status: rejected with nothing else changed, OK, or TransportError at one of its writes. -/
theorem exec_request_status {i : Instr} (hi : isHostRequest i = true) {s t : State} (h : exec i s = .next t) :
    (∃ e, requestPlan s i = .error e ∧ t = { s with responses := s.responses ++ [e] })
      ∨ t.responses = s.responses ++ [.ok]
      ∨ (t.responses = s.responses ++ [.transportError]
          ∧ ∃ k, requestPlan s i = .ok k ∧ 0 < writeCount (planEvents k s)) := by
  obtain ⟨hq, ⟨e, he, rfl⟩ | ⟨k, -, -, rfl⟩ | ⟨k, n, hk, hn, -, rfl⟩⟩ := exec_request_cases hi h
  · exact .inl ⟨e, he, complete_of_idle hq e⟩
  · obtain ⟨-, -, -, -, -, -, -, hresp⟩ := planState_frame k s
    exact .inr (.inl (by rw [State.complete_responses, State.observed_responses, hresp]))
  · obtain ⟨-, -, -, -, -, -, -, hresp⟩ := planStateAt_frame n k s
    exact .inr (.inr ⟨by rw [State.complete_responses, State.observed_responses, hresp], k, hk, n.zero_le.trans_lt hn⟩)

/-- A suppressed line-feed sends nothing, so no write of it can be answered ERR (R103). -/
theorem writeCount_lineFeed_suppressed {s : State} (hnl : s.impliedNl = true) {k : List Act}
    (hk : requestPlan s (.putchar lineFeed) = .ok k) : writeCount (planEvents k s) = 0 := by
  cases (requestPlan_lineFeed_suppressed hnl).symm.trans hk
  rfl

/-- Settles O42: `requestPlan_error` names the rejections, and a TransportError needs a write, which a suppressed line-feed has not. -/
theorem requestEndsWithOneAllowedStatus : Obligations.RequestEndsWithOneAllowedStatus := by
  intro i s t hi h
  obtain ⟨e, he, rfl⟩ | hok | ⟨herr, k, hk, hwrites⟩ := exec_request_status hi h
  · exact ⟨e, rfl, .inr (.inr (requestPlan_error he))⟩
  · exact ⟨.ok, hok, .inl rfl⟩
  · refine ⟨.transportError, herr, .inr (.inl ⟨rfl, ?_⟩)⟩
    rintro ⟨rfl, hnl⟩
    exact hwrites.ne' (writeCount_lineFeed_suppressed hnl hk)

/-- Settles O43: of the three ends only the rejection delivers a status other than OK and TransportError. -/
theorem validationErrorsHaveNoEffect : Obligations.ValidationErrorsHaveNoEffect := by
  intro i s t st hi h hst hok herr
  have delivered {e : Status} (he : t.responses = s.responses ++ [e]) : e = st :=
    List.singleton_injective (List.append_cancel_left (he.symm.trans hst))
  obtain ⟨e, -, rfl⟩ | hend | ⟨hend, -⟩ := exec_request_status hi h
  · rw [delivered rfl]
  · exact absurd (delivered hend).symm hok
  · exact absurd (delivered hend).symm herr

end Sys2Proof.Machine
end

section
/-! PROOFS. Reset and hazards (70_reset_and_hazards.md): the block takes every request at an operation boundary and none while it is BUSY
(R149, R153, R154), and CONSTRUCT (R148, R150, R155). -/

namespace Sys2Proof.Machine

open Sys2Proof

/-! ## The host port at a boundary -/

/-- Settles O14: with no whole request to take, a step from IDLE is the waiting step. -/
theorem idleWaitsForAWholeRequest : Obligations.IdleWaitsForAWholeRequest :=
  fun _ hwf hport hseq htake => (step_idle hwf hport hseq).trans (stepRequest_of_no_request htake)

/-- Settles O4: the step waits, or it takes the request at the head of the port (`step_takes_request`). -/
theorem boundaryNeverStops : Obligations.BoundaryNeverStops := by
  intro s hs hport
  cases htake : takeRequest s.hostPort with
  | none => exact ⟨s, idleWaitsForAWholeRequest s hs.legal hport hs.idle htake⟩
  | some taken =>
    obtain ⟨t, ht, -⟩ := step_takes_request hs.legal hport hs.idle htake
    exact ⟨t, ht⟩

/-! ## The host port while an operation is in progress -/

/-- A step goes on only in a legal configuration (00_scope.md R16). -/
theorem wf_of_step_next {s t : State} (h : step s = .next t) : s.cfg.wf = true := by
  by_contra hwf
  rw [step, if_neg hwf] at h
  cases h

/-- Everything a step from BUSY can do: it runs a transport word, or moves the operation on by one statement. -/
theorem step_busy_cases {s t : State} {op : Instr} {k : List Act} (hseq : s.seq = .busy op k) (h : step s = .next t) :
    (∃ p : Prim, exec p.toInstr (s.withAdapterPort none) = .next t) ∨ t = advance op k s := by
  have hwf := wf_of_step_next h
  cases hport : s.adapterPort with
  | some w =>
    rw [step_transport hwf hport] at h
    cases hd : decodeTransport w with
    | error e => simp only [stepTransport, hd] at h; cases h
    | ok i =>
      rw [stepTransport_of_decode hd] at h
      cases hi : isHostRequest i with
      | true => rw [exec_request_busy hi (s := s.withAdapterPort none) hseq] at h; cases h
      | false =>
        obtain ⟨p, rfl⟩ := exists_prim hi
        exact .inl ⟨p, h⟩
  | none =>
    rw [step_busy hwf hport hseq] at h
    cases h
    exact .inr rfl

/-- Settles O18: a request is refused (`exec_request_busy`), and neither thing a step can do touches the host port. -/
theorem busyPortAcceptsNothing : Obligations.BusyPortAcceptsNothing := by
  refine ⟨fun i s op k hi hseq => exec_request_busy hi hseq, fun s t op k hseq h => ?_⟩
  obtain ⟨p, hexec⟩ | rfl := step_busy_cases hseq h
  · obtain ⟨-, -, -, -, -, -, -, hhost, -⟩ := exec_prim_frame hexec
    exact hhost
  · obtain ⟨-, -, -, hhost, -⟩ := advance_frame op k s
    exact hhost

/-! ## CONSTRUCT -/

/-- CONSTRUCT ends with the status INIT delivers, the only one since the reset (R150). -/
theorem construct_of_exec_init {s u : State} (hseq : s.seq = .idle) {c : Configuration} (hc : c.wf = true) {st : Status}
    (h : exec .init (s.afterPowerOn c) = .next u) (hresp : u.responses = [st]) : construct c s = some (st, u) := by
  rw [construct_idle hseq hc]
  exact hostRequest_of_exec (before := []) hc rfl h hresp

/-- The flags INIT reads are those of the reset (R34): the words on the host port and the answers to come are kept beside them. -/
theorem afterPowerOn_flags (s : State) (c : Configuration) :
    (s.afterPowerOn c).bl = true ∧ (s.afterPowerOn c).c = false ∧ (s.afterPowerOn c).b = false := by
  obtain ⟨hbl, -, hcur, hb⟩ := resetWith_flags c
  exact ⟨hbl, hcur, hb⟩

/-- Reset has homed the cursor already: of INIT's state writes only FLAGS.D changes anything. -/
theorem home_afterPowerOn (s : State) (c : Configuration) :
    ((((s.afterPowerOn c).writeD true).withCursorX 0).withCursorY 0).withImpliedNl false
      = (s.afterPowerOn c).writeD true := rfl

/-- Settles O51: `initRunsPowerOnSequence` in the state after the reset, where BL is 1 and C and B are 0. -/
theorem constructResetsThenInits : Obligations.ConstructResetsThenInits := by
  intro c s n r es
  refine ⟨fun hseq hc => ?_, fun hseq => ?_, fun hc => construct_of_no_reset (powerOn_illegal s hc)⟩
  · obtain ⟨-, hack, herr⟩ := initRunsPowerOnSequence (s.afterPowerOn c) rfl
    obtain ⟨hbl, hcur, hb⟩ := afterPowerOn_flags s c
    rw [hbl, hcur, hb] at hack herr
    rw [home_afterPowerOn] at hack
    refine ⟨fun ha => construct_of_exec_init hseq hc (hack ha) rfl, fun j hj he => ?_⟩
    refine construct_of_exec_init hseq hc (herr j hj he) ?_
    rw [State.complete_responses, State.observed_responses]
    split <;> rfl
  · cases hq : s.seq with
    | idle => exact absurd hq hseq
    | busy op k => exact construct_of_no_reset (powerOn_busy hq c)

end Sys2Proof.Machine
end

section
/-! PROOFS. The round trip between instructions and words (30_encoding.md R58 to R72): the words of an instruction decode to it, and a
legal word is the word of what it decodes to. -/

namespace Sys2Proof

/-! ## Decoding what is encoded -/

theorem decode_one_word {h : RequestWord} (hop : opcodeOf h ≠ glyphOpcode) :
    decode (.request [h]) = decodeRequest ⟨h, 0, 0⟩ := by
  simp only [decode, takeRequest_one_word hop]

theorem decode_three_words {h : RequestWord} (hop : opcodeOf h = glyphOpcode) (p0 p1 : RequestWord) :
    decode (.request [h, p0, p1]) = decodeRequest ⟨h, p0, p1⟩ := by
  simp only [decode, takeRequest_three_words hop]

theorem decodeRequest_putchar {r : RawRequest} (e : r.h &&& 0xFFE00000#32 = 0x03000000#32) :
    decodeRequest r = .ok (.putchar (r.h.extractLsb' 0 21)) := by
  have hop : opcodeOf r.h = 0x03#8 := opcodeOf_of_mask e (by decide)
  simp [decodeRequest, hop, legalRequest, e]

theorem decodeRequest_moveto {r : RawRequest} (e : r.h &&& 0xFFFF0000#32 = 0x04000000#32) :
    decodeRequest r = .ok (.moveto (r.h.extractLsb' 8 8) (r.h.extractLsb' 0 8)) := by
  have hop : opcodeOf r.h = 0x04#8 := opcodeOf_of_mask e (by decide)
  simp [decodeRequest, hop, legalRequest, e]

theorem decodeRequest_glyph {r : RawRequest} (e : r.h &&& 0xFFFFFF00#32 = 0x09000000#32) :
    decodeRequest r = .ok (.glyph (r.h.extractLsb' 0 8) (unpackPattern r.p0 r.p1)) := by
  have hop : opcodeOf r.h = 0x09#8 := opcodeOf_of_mask e (by decide)
  simp [decodeRequest, hop, glyphOpcode, legalRequest, e]

theorem decode_encode_putchar (cp : Codepoint) : decode (encode (.putchar cp)) = .ok (.putchar cp) := by
  rw [encode, decode_one_word (by rw [opcodeOf_putchar]; decide), decodeRequest_putchar (mask_putchar cp),
    operand_putchar_cp]

theorem decode_encode_moveto (col row : BitVec 8) : decode (encode (.moveto col row)) = .ok (.moveto col row) := by
  rw [encode, decode_one_word (by rw [opcodeOf_moveto]; decide), decodeRequest_moveto (mask_moveto col row),
    operand_moveto_col, operand_moveto_row]

theorem decode_encode_glyph (slot : BitVec 8) (p : Vector Byte 8) :
    decode (encode (.glyph slot p)) = .ok (.glyph slot p) := by
  rw [encode, decode_three_words (opcodeOf_glyph slot), decodeRequest_glyph (mask_glyph slot), operand_glyph_slot,
    unpackPattern_packPattern]

/-- On the transport port this is the Adapter reading back what the Session put into the word (`decodeTransport_word`). -/
theorem decode_encode_prim (p : Machine.Prim) : decode (encode p.toInstr) = .ok p.toInstr := by
  have hword : encode p.toInstr = .transport p.word := by cases p <;> rfl
  rw [hword]
  exact Machine.decodeTransport_word p

/-- Settles O9: the operands of a host request are read back field by field; a 1-bit operand has two values. -/
theorem decodeOfEncode : Obligations.DecodeOfEncode := by
  intro i
  cases hi : Machine.isHostRequest i with
  | false =>
    obtain ⟨p, rfl⟩ := Machine.exists_prim hi
    exact decode_encode_prim p
  | true =>
    cases i with
    | init => rfl
    | clear => rfl
    | putchar cp => exact decode_encode_putchar cp
    | moveto col row => exact decode_encode_moveto col row
    | setbl v => cases v <;> rfl
    | setdisp v => cases v <;> rfl
    | setcursor v => cases v <;> rfl
    | setblink v => cases v <;> rfl
    | glyph slot p => exact decode_encode_glyph slot p
    | tWrinit | tWrcmd | tWrdata | tSetbl | tWait => cases hi

/-- Settles O8: the words have no free bits, so the decoder is evaluated on each. -/
theorem sampleWordsDecode : Obligations.SampleWordsDecode :=
  ⟨rfl, rfl, rfl, rfl, rfl, rfl, rfl, rfl, rfl, rfl⟩

/-! ## Encoding what is decoded -/

/-- Where the mask holds every bit, a word of a row has the row's bits (R71, R72). -/
theorem extractLsb'_of_mask {n : Nat} {word mask value : BitVec n} (e : word &&& mask = value) {k m : Nat}
    (hm : mask.extractLsb' k m = BitVec.allOnes m) : word.extractLsb' k m = value.extractLsb' k m := by
  rw [← e, BitVec.extractLsb'_and, hm, BitVec.and_allOnes]

/-- A word of a row is the row's fixed bits and, behind them, its operand bits. -/
theorem append_operand_of_mask {m k : Nat} {word mask value : BitVec (m + k)} {fixed : BitVec m}
    (e : word &&& mask = value) (hm : mask.extractLsb' k m = BitVec.allOnes m) (hv : value.extractLsb' k m = fixed) :
    fixed ++ word.extractLsb' 0 k = word := by
  rw [← hv, ← extractLsb'_of_mask e hm, BitVec.extractLsb'_append_extractLsb'_eq_extractLsb' (Nat.zero_add k).symm,
    BitVec.extractLsb'_eq_self]

/-- A 1-bit operand is the last bit of its word (R64 to R67, R72). -/
theorem ofBool_getLsbD_zero {n : Nat} (word : BitVec n) : BitVec.ofBool (word.getLsbD 0) = word.extractLsb' 0 1 := by
  apply BitVec.eq_of_getLsbD_eq
  intro i hi
  obtain rfl : i = 0 := Nat.lt_one_iff.1 hi
  simp

theorem append_switch_of_mask {m : Nat} {word mask value : BitVec (m + 1)} {fixed : BitVec m}
    (e : word &&& mask = value) (hm : mask.extractLsb' 1 m = BitVec.allOnes m) (hv : value.extractLsb' 1 m = fixed) :
    fixed ++ BitVec.ofBool (word.getLsbD 0) = word := by
  rw [ofBool_getLsbD_zero, append_operand_of_mask e hm hv]

/-- MOVETO has two operand bytes behind its fixed bits (R63). -/
theorem append_moveto_of_mask {h : RequestWord} (e : h &&& 0xFFFF0000 = 0x04000000) :
    (0x04#8 ++ 0#8 ++ h.extractLsb' 8 8 ++ h.extractLsb' 0 8 : BitVec 32) = h := by
  have hfixed : h.extractLsb' 16 16 = 0x04#8 ++ 0#8 := (extractLsb'_of_mask e (by decide)).trans (by decide)
  have hcol : h.extractLsb' 16 16 ++ h.extractLsb' 8 8 = h.extractLsb' 8 24 :=
    BitVec.extractLsb'_append_extractLsb'_eq_extractLsb' rfl
  have hrow : h.extractLsb' 8 24 ++ h.extractLsb' 0 8 = h.extractLsb' 0 32 :=
    BitVec.extractLsb'_append_extractLsb'_eq_extractLsb' rfl
  rw [← hfixed, hcol, hrow, BitVec.extractLsb'_eq_self]

/-- A request whose opcode is not that of GLYPH is its word `H` (R69). -/
theorem request_one_word {r : RawRequest} {op : BitVec 8} (hop : opcodeOf r.h = op) (hne : op ≠ glyphOpcode)
    {word : RequestWord} (hword : word = r.h) :
    Encoded.request [word] = .request (if requestLength r.h = 3 then [r.h, r.p0, r.p1] else [r.h]) := by
  simp [requestLength, hop, hne, hword]

/-- A GLYPH request is its word `H` and its two payload words (R69). -/
theorem request_three_words {r : RawRequest} (hop : opcodeOf r.h = glyphOpcode) :
    Encoded.request [r.h, r.p0, r.p1] = .request (if requestLength r.h = 3 then [r.h, r.p0, r.p1] else [r.h]) := by
  simp [requestLength, hop]

/-- Each branch of the decoder checks the fixed bits of its row and reads the operands from the others. -/
theorem encode_of_decodeRequest {r : RawRequest} {i : Instr} (h : decodeRequest r = .ok i) :
    encode i = .request (if requestLength r.h = 3 then [r.h, r.p0, r.p1] else [r.h]) := by
  rw [decodeRequest] at h
  split_ifs at h with h1 h2 h3 h4 h5 h6 h7 h8 h9 <;> obtain ⟨e, rfl⟩ := legalRequest_eq_ok.1 h
  · exact request_one_word h1 (by decide) (e.symm.trans BitVec.and_allOnes)
  · exact request_one_word h2 (by decide) (e.symm.trans BitVec.and_allOnes)
  · exact request_one_word h3 (by decide) (append_operand_of_mask (m := 11) (k := 21) e (by decide) (by decide))
  · exact request_one_word h4 (by decide) (append_moveto_of_mask e)
  · exact request_one_word h5 (by decide) (append_switch_of_mask (m := 31) e (by decide) (by decide))
  · exact request_one_word h6 (by decide) (append_switch_of_mask (m := 31) e (by decide) (by decide))
  · exact request_one_word h7 (by decide) (append_switch_of_mask (m := 31) e (by decide) (by decide))
  · exact request_one_word h8 (by decide) (append_switch_of_mask (m := 31) e (by decide) (by decide))
  · rw [← request_three_words h9, encode, packPattern_unpackPattern,
      append_operand_of_mask (m := 24) (k := 8) e (by decide) (by decide)]

theorem encode_of_decodeTransport {t : TransportWord} {i : Instr} (h : decodeTransport t = .ok i) :
    encode i = .transport t := by
  rw [decodeTransport] at h
  split_ifs at h <;> obtain ⟨e, rfl⟩ := legalTransport_eq_ok.1 h <;> refine congrArg Encoded.transport ?_
  · exact append_operand_of_mask (m := 20) (k := 4) e (by decide) (by decide)
  · exact append_operand_of_mask (m := 16) (k := 8) e (by decide) (by decide)
  · exact append_operand_of_mask (m := 16) (k := 8) e (by decide) (by decide)
  · exact append_switch_of_mask (m := 23) e (by decide) (by decide)
  · exact append_operand_of_mask (m := 4) (k := 20) e (by decide) (by decide)

/-- Settles O10: a legal word is its row's fixed bits and its operand bits (`append_operand_of_mask`), which is what the encoder puts
together. -/
theorem encodeOfDecode : Obligations.EncodeOfDecode :=
  ⟨fun _ _ h => encode_of_decodeRequest h, fun _ _ h => encode_of_decodeTransport h⟩

end Sys2Proof
end

section
/-! PROOFS. The configuration is fixed when the block is constructed (00_scope.md section 3). -/

namespace Sys2Proof.Machine

open Sys2Proof

theorem exec_prim_keeps_cfg {p : Prim} {s t : State} (h : exec p.toInstr s = .next t) : t.cfg = s.cfg := by
  obtain ⟨hcfg, -⟩ := exec_prim_frame h
  exact hcfg

theorem exec_keeps_cfg {i : Instr} {s t : State} (h : exec i s = .next t) : t.cfg = s.cfg := by
  cases hi : isHostRequest i with
  | true =>
    obtain ⟨hcfg, -⟩ := exec_request_frame hi h
    exact hcfg
  | false =>
    obtain ⟨p, rfl⟩ := exists_prim hi
    exact exec_prim_keeps_cfg h

/-- Settles O5: a step runs an instruction, moves an operation on, turns a request away or waits, and none of these writes `cfg`. -/
theorem stepKeepsConfiguration : Obligations.StepKeepsConfiguration := by
  intro s t h
  cases hseq : s.seq with
  | idle =>
    obtain ⟨i, hexec⟩ | ⟨i, after, hexec⟩ | ⟨after, rfl⟩ | rfl := step_idle_cases hseq h
    · exact exec_keeps_cfg (s := s.withAdapterPort none) hexec
    · exact exec_keeps_cfg (s := s.withHostPort after) hexec
    · rfl
    · rfl
  | busy op k =>
    obtain ⟨p, hexec⟩ | rfl := step_busy_cases hseq h
    · exact exec_prim_keeps_cfg (s := s.withAdapterPort none) hexec
    · obtain ⟨hcfg, -⟩ := advance_frame op k s
      exact hcfg

end Sys2Proof.Machine
end
